-- ==== Sys2Proof/Word.lean ====
section
/-!
DEFINITION. The word types of TRX and how a 32-bit word is made of bytes (00_scope.md R8, R9, R11; 20_memory.md R50).
-/

namespace Sys2Proof

/-- A byte of DMEM or of a tile register (R9). -/
abbrev Byte := BitVec 8

/-- A u32 value: a scalar register, the pc, a CSR, an instruction word (R8). -/
abbrev Word := BitVec 32

/-- The contents of one 256-bit tile register, held as its 32 bytes: index k is the view `B[k]`,
bits `8k+7 : 8k` of the register (R9, R19). -/
abbrev Tile := Vector Byte 32

/-- The 32-bit number whose least significant byte is `b0` (R11, R50). -/
def wordOfBytes (b0 b1 b2 b3 : Byte) : Word := b3 ++ b2 ++ b1 ++ b0

/-- Bits `8k+7 : 8k` of a word (R11); the word has four such bytes, k = 0..3. -/
def wordByte (w : Word) (k : Nat) : Byte := w.extractLsb' (8 * k) 8

/-- The four bytes of a word, least significant first (R11, R50). -/
def wordBytes (w : Word) : List Byte := [wordByte w 0, wordByte w 1, wordByte w 2, wordByte w 3]

end Sys2Proof
end

