-- ==== Sys2Proof/Syntax.lean ====
section
/-!
DEFINITION. The instructions of TRX, one constructor per row of opcode_table.json (30_encoding.md R68 to R78).
-/

namespace Sys2Proof

/-- A scalar register number, A0 to A7 (R77). -/
abbrev AReg := Fin 8

/-- A tile register number, V0 to V15 (R77). -/
abbrev VReg := Fin 16

/-- The width bit W: `x` is the 16-byte form (W = 0), `y` the 32-byte form (W = 1) (R68, R82). -/
inductive Width where
  | x
  | y
deriving DecidableEq, Repr

/-- The element size bit S: `d` is a doubleword (S = 0), `q` a quadword (S = 1) (R68, R82). -/
inductive ElemSize where
  | d
  | q
deriving DecidableEq, Repr

/-- The DMX modes (R75, R86). -/
inductive DmxMode where
  | ref
  | scalar
  | t4
  | t8
  | t16
deriving DecidableEq, Repr

/-- The implemented CSRs, numbers 0x00 to 0x0E in this order (10_state.md R28). -/
inductive Csr where
  | ctrl
  | status
  | entry
  | pc
  | id
  | cfg
  | faultPc
  | faultInfo
  | nts
  | dsz
  | src
  | slen
  | dtab
  | dcnt
  | dtab2
deriving DecidableEq, Repr

/-- The 27 instructions. Operands stand in the order of the encoding's fields from the left (R69 to R75). -/
inductive Instr where
  | nop
  | halt
  | j (imm16 : BitVec 16)
  | dbnz (ra : AReg) (imm16 : BitVec 16)
  | bne (ra rb : AReg) (imm16 : BitVec 16)
  | li (ra : AReg) (imm16 : BitVec 16)
  | lih (ra : AReg) (imm16 : BitVec 16)
  | addi (ra rb : AReg) (imm16 : BitVec 16)
  | add (ra rb rc : AReg)
  | ldw (ra rb : AReg) (imm16 : BitVec 16)
  | stw (ra rb : AReg) (imm16 : BitVec 16)
  | csrr (ra : AReg) (csr : Csr)
  | csrw (ra : AReg) (csr : Csr)
  | vld (w : Width) (v0 : VReg) (ra : AReg) (imm12 : BitVec 12)
  | vst (w : Width) (v0 : VReg) (ra : AReg) (imm12 : BitVec 12)
  | vldl (sz : ElemSize) (v0 : VReg) (ra : AReg) (lane : Fin 8) (imm12 : BitVec 12)
  | vstl (sz : ElemSize) (v0 : VReg) (ra : AReg) (lane : Fin 8) (imm12 : BitVec 12)
  | tr4b (w : Width) (v0 v1 : VReg)
  | shufd (w : Width) (v0 v1 v2 : VReg) (imm8 : BitVec 8)
  | tr4d (w : Width) (v0 v1 v2 v3 : VReg)
  | tr8b (w : Width) (v0 v1 v2 v3 : VReg)
  | tr16b (w : Width)
  | vmov (w : Width) (v0 v1 : VReg)
  | vinsh (v0 v1 : VReg)
  | vexth (v0 v1 : VReg)
  | dmx (w : Width) (mode : DmxMode)
  | dcmp (ra : AReg)
deriving DecidableEq, Repr

end Sys2Proof
end

