-- ==== Sys2Proof/WellFormed.lean ====
section
/-!
DEFINITION. Which operand combinations are legal (30_encoding.md R73 to R75, R79). The other conditions of R79 cannot be
written down as a term of Instr at all.
-/

namespace Sys2Proof

/-- The CSRs a program may write with CSRW: NTS, DSZ, SRC, SLEN, DTAB, DCNT and DTAB2 (10_state.md R27; R79 item 7). -/
def Csr.programWritable : Csr → Bool
  | .ctrl | .status | .entry | .pc | .id | .cfg | .faultPc | .faultInfo => false
  | .nts | .dsz | .src | .slen | .dtab | .dcnt | .dtab2 => true

/-- With S = 1 only quadword lanes 0 to 3 exist; with S = 0 every lane 0 to 7 is legal (R73; R79 item 3). -/
def ElemSize.laneFits : ElemSize → Fin 8 → Bool
  | .d, _ => true
  | .q, lane => decide (lane.val < 4)

/-- The four registers of TR4D and TR8B are pairwise distinct (R74; R79 item 4). -/
def pairwiseDistinct (v0 v1 v2 v3 : VReg) : Bool :=
  decide (v0 ≠ v1 ∧ v0 ≠ v2 ∧ v0 ≠ v3 ∧ v1 ≠ v2 ∧ v1 ≠ v3 ∧ v2 ≠ v3)

/-- Modes REF and SCALAR require W = 0 (R75; R79 item 6). -/
def DmxMode.widthFits : DmxMode → Width → Bool
  | .ref, w => decide (w = .x)
  | .scalar, w => decide (w = .x)
  | .t4, _ => true
  | .t8, _ => true
  | .t16, _ => true

/-- The instruction's operands satisfy every condition of R79 that a term of Instr can violate. -/
def WellFormed : Instr → Bool
  | .nop => true
  | .halt => true
  | .j _ => true
  | .dbnz _ _ => true
  | .bne _ _ _ => true
  | .li _ _ => true
  | .lih _ _ => true
  | .addi _ _ _ => true
  | .add _ _ _ => true
  | .ldw _ _ _ => true
  | .stw _ _ _ => true
  | .csrr _ _ => true
  | .csrw _ csr => csr.programWritable
  | .vld _ _ _ _ => true
  | .vst _ _ _ _ => true
  | .vldl sz _ _ lane _ => sz.laneFits lane
  | .vstl sz _ _ lane _ => sz.laneFits lane
  | .tr4b _ _ _ => true
  | .shufd _ _ _ _ _ => true
  | .tr4d _ v0 v1 v2 v3 => pairwiseDistinct v0 v1 v2 v3
  | .tr8b _ v0 v1 v2 v3 => pairwiseDistinct v0 v1 v2 v3
  | .tr16b _ => true
  | .vmov _ _ _ => true
  | .vinsh _ _ => true
  | .vexth _ _ => true
  | .dmx w mode => mode.widthFits w
  | .dcmp _ => true

end Sys2Proof
end

