-- ==== Sys2Proof/Decode.lean ====
section
/-!
DEFINITION. The decoder of TRX, which rejects every illegal word by name, and after it the encoder, both written from the
format tables of 30_encoding.md (R67 to R79).
-/

namespace Sys2Proof

/-- Why R79 rejects a word. The name is the model's; the machine reports only ILLEGAL_INSTRUCTION (log 15). -/
inductive DecodeError where
  /-- item 1: the opcode is reserved (R78) -/
  | reservedOpcode
  /-- item 2: a field that must be zero is not -/
  | reservedField
  /-- item 3: VLDL or VSTL of quadword lane 4 to 7 -/
  | laneOutOfRange
  /-- item 4: TR4D or TR8B with a register named twice -/
  | duplicateRegister
  /-- item 5: VINSH or VEXTH with W = 1 -/
  | wideHalfMove
  /-- item 6: DMX mode 5, 6 or 7, or mode 0 or 1 with W = 1 -/
  | illegalMode
  /-- item 7: an unimplemented CSR, or CSRW of one the program may not write -/
  | forbiddenCsr
deriving DecidableEq, Repr

/-! ### Field values -/

/-- The scalar register a 3-bit field names (R77). -/
def aregOf (b : BitVec 3) : AReg := ⟨b.toNat, b.isLt⟩

/-- The tile register a 4-bit field names (R77). -/
def vregOf (b : BitVec 4) : VReg := ⟨b.toNat, b.isLt⟩

/-- The lane a 3-bit field names (R68). -/
def laneOf (b : BitVec 3) : Fin 8 := ⟨b.toNat, b.isLt⟩

/-- The width bit W (R68). -/
def widthOf (b : BitVec 1) : Width := if b = 0 then .x else .y

/-- The element size bit S (R68). -/
def elemSizeOf (b : BitVec 1) : ElemSize := if b = 0 then .d else .q

/-- The DMX mode a 3-bit field names; 5, 6 and 7 are reserved (R75). -/
def modeOf (b : BitVec 3) : Option DmxMode :=
  match b.toNat with
  | 0 => some .ref
  | 1 => some .scalar
  | 2 => some .t4
  | 3 => some .t8
  | 4 => some .t16
  | _ => none

/-- The implemented CSR an 8-bit number names; 0x0F to 0xFF are unimplemented (10_state.md R28, R44). -/
def csrOf (b : BitVec 8) : Option Csr :=
  match b.toNat with
  | 0x00 => some .ctrl
  | 0x01 => some .status
  | 0x02 => some .entry
  | 0x03 => some .pc
  | 0x04 => some .id
  | 0x05 => some .cfg
  | 0x06 => some .faultPc
  | 0x07 => some .faultInfo
  | 0x08 => some .nts
  | 0x09 => some .dsz
  | 0x0A => some .src
  | 0x0B => some .slen
  | 0x0C => some .dtab
  | 0x0D => some .dcnt
  | 0x0E => some .dtab2
  | _ => none

/-- Go on with `k` where a must-be-zero field is zero (R79 item 2). -/
def zeroField {n : Nat} (b : BitVec n) (k : Except DecodeError Instr) : Except DecodeError Instr :=
  if b = 0 then k else .error .reservedField

/-! ### Formats -/

/-- Format N: bits 25:0 zero (R69). -/
def decodeN (w : Word) (i : Instr) : Except DecodeError Instr :=
  zeroField (w.extractLsb' 0 26) (.ok i)

/-- Format I with `ra` and `rb`: bits 19:16 zero (R70). -/
def decodeI (w : Word) (mk : AReg → AReg → BitVec 16 → Instr) : Except DecodeError Instr :=
  zeroField (w.extractLsb' 16 4)
    (.ok (mk (aregOf (w.extractLsb' 23 3)) (aregOf (w.extractLsb' 20 3)) (w.extractLsb' 0 16)))

/-- Format I of DBNZ, LI and LIH: `rb` and bits 19:16 zero (R70). -/
def decodeIOne (w : Word) (mk : AReg → BitVec 16 → Instr) : Except DecodeError Instr :=
  zeroField (w.extractLsb' 16 7) (.ok (mk (aregOf (w.extractLsb' 23 3)) (w.extractLsb' 0 16)))

/-- Format C: bits 22:8 zero and an implemented CSR number (R72; R79 item 7). -/
def decodeC (w : Word) (mk : AReg → Csr → Instr) : Except DecodeError Instr :=
  zeroField (w.extractLsb' 8 15)
    (match csrOf (w.extractLsb' 0 8) with
     | some c => .ok (mk (aregOf (w.extractLsb' 23 3)) c)
     | none => .error .forbiddenCsr)

/-- Format VM of VLD and VST: lane and bits 14:12 zero (R73). -/
def decodeVM (w : Word) (mk : Width → VReg → AReg → BitVec 12 → Instr) : Except DecodeError Instr :=
  zeroField (w.extractLsb' 12 6)
    (.ok (mk (widthOf (w.extractLsb' 25 1)) (vregOf (w.extractLsb' 21 4)) (aregOf (w.extractLsb' 18 3))
      (w.extractLsb' 0 12)))

/-- Format VM of VLDL and VSTL: bits 14:12 zero (R73). -/
def decodeVMLane (w : Word) (mk : ElemSize → VReg → AReg → Fin 8 → BitVec 12 → Instr) : Except DecodeError Instr :=
  zeroField (w.extractLsb' 12 3)
    (.ok (mk (elemSizeOf (w.extractLsb' 25 1)) (vregOf (w.extractLsb' 21 4)) (aregOf (w.extractLsb' 18 3))
      (laneOf (w.extractLsb' 15 3)) (w.extractLsb' 0 12)))

/-- Format VR with two registers and W: bits 16:0 zero (R74). -/
def decodeVRTwo (w : Word) (mk : Width → VReg → VReg → Instr) : Except DecodeError Instr :=
  zeroField (w.extractLsb' 0 17)
    (.ok (mk (widthOf (w.extractLsb' 25 1)) (vregOf (w.extractLsb' 21 4)) (vregOf (w.extractLsb' 17 4))))

/-- Format VR with four registers and W: bits 8:0 zero (R74). -/
def decodeVRFour (w : Word) (mk : Width → VReg → VReg → VReg → VReg → Instr) : Except DecodeError Instr :=
  zeroField (w.extractLsb' 0 9)
    (.ok (mk (widthOf (w.extractLsb' 25 1)) (vregOf (w.extractLsb' 21 4)) (vregOf (w.extractLsb' 17 4))
      (vregOf (w.extractLsb' 13 4)) (vregOf (w.extractLsb' 9 4))))

/-- Format VR of VINSH and VEXTH: W = 0 and bits 16:0 zero (R74; R79 item 5). -/
def decodeVRHalf (w : Word) (mk : VReg → VReg → Instr) : Except DecodeError Instr :=
  if w.extractLsb' 25 1 = 0 then
    zeroField (w.extractLsb' 0 17) (.ok (mk (vregOf (w.extractLsb' 21 4)) (vregOf (w.extractLsb' 17 4))))
  else .error .wideHalfMove

/-- Format D: bits 21:0 zero and a mode that is not reserved (R75; R79 item 6). -/
def decodeD (w : Word) : Except DecodeError Instr :=
  zeroField (w.extractLsb' 0 22)
    (match modeOf (w.extractLsb' 22 3) with
     | some m => .ok (.dmx (widthOf (w.extractLsb' 25 1)) m)
     | none => .error .illegalMode)

/-- The word read by its opcode and format alone: items 1, 2, 5 of R79 and the reserved modes and CSR numbers
(R78, R79). -/
def decodeFields (w : Word) : Except DecodeError Instr :=
  match (w.extractLsb' 26 6).toNat with
  | 0x01 => decodeN w .nop
  | 0x02 => decodeN w .halt
  | 0x04 => zeroField (w.extractLsb' 16 10) (.ok (.j (w.extractLsb' 0 16)))
  | 0x05 => decodeIOne w .dbnz
  | 0x06 => decodeI w .bne
  | 0x08 => decodeIOne w .li
  | 0x09 => decodeIOne w .lih
  | 0x0A => decodeI w .addi
  | 0x0B => zeroField (w.extractLsb' 0 17)
      (.ok (.add (aregOf (w.extractLsb' 23 3)) (aregOf (w.extractLsb' 20 3)) (aregOf (w.extractLsb' 17 3))))
  | 0x0C => decodeI w .ldw
  | 0x0D => decodeI w .stw
  | 0x0E => decodeC w .csrr
  | 0x0F => decodeC w .csrw
  | 0x10 => decodeVM w .vld
  | 0x11 => decodeVM w .vst
  | 0x12 => decodeVMLane w .vldl
  | 0x13 => decodeVMLane w .vstl
  | 0x18 => decodeVRTwo w .tr4b
  | 0x19 => zeroField (w.extractLsb' 8 5)
      (.ok (.shufd (widthOf (w.extractLsb' 25 1)) (vregOf (w.extractLsb' 21 4)) (vregOf (w.extractLsb' 17 4))
        (vregOf (w.extractLsb' 13 4)) (w.extractLsb' 0 8)))
  | 0x1A => decodeVRFour w .tr4d
  | 0x1B => decodeVRFour w .tr8b
  | 0x1C => zeroField (w.extractLsb' 0 25) (.ok (.tr16b (widthOf (w.extractLsb' 25 1))))
  | 0x1D => decodeVRTwo w .vmov
  | 0x1E => decodeVRHalf w .vinsh
  | 0x1F => decodeVRHalf w .vexth
  | 0x20 => decodeD w
  | 0x21 => zeroField (w.extractLsb' 0 23) (.ok (.dcmp (aregOf (w.extractLsb' 23 3))))
  | _ => .error .reservedOpcode

/-- Which item of R79 an operand combination violates that the fields alone do not show. -/
def operandError : Instr → DecodeError
  | .vldl _ _ _ _ _ | .vstl _ _ _ _ _ => .laneOutOfRange
  | .tr4d _ _ _ _ _ | .tr8b _ _ _ _ _ => .duplicateRegister
  | .dmx _ _ => .illegalMode
  | .csrw _ _ => .forbiddenCsr
  | .nop | .halt | .j _ | .dbnz _ _ | .bne _ _ _ | .li _ _ | .lih _ _ | .addi _ _ _ | .add _ _ _ | .ldw _ _ _
  | .stw _ _ _ | .csrr _ _ | .vld _ _ _ _ | .vst _ _ _ _ | .tr4b _ _ _ | .shufd _ _ _ _ _ | .tr16b _ | .vmov _ _ _
  | .vinsh _ _ | .vexth _ _ | .dcmp _ => .reservedField

/-- Strict decoding of one instruction word (R79, R80): the instruction, or the reason the word is illegal. -/
def decode (w : Word) : Except DecodeError Instr :=
  match decodeFields w with
  | .ok i => if WellFormed i then .ok i else .error (operandError i)
  | .error e => .error e

/-! ### The encoder -/

/-- The 3-bit field that names a scalar register (R77). -/
def aregBits (r : AReg) : BitVec 3 := BitVec.ofNat 3 r.val

/-- The 4-bit field that names a tile register (R77). -/
def vregBits (r : VReg) : BitVec 4 := BitVec.ofNat 4 r.val

/-- The 3-bit lane field (R68). -/
def laneBits (l : Fin 8) : BitVec 3 := BitVec.ofNat 3 l.val

/-- The width bit W (R68). -/
def Width.bits : Width → BitVec 1
  | .x => 0
  | .y => 1

/-- The element size bit S (R68). -/
def ElemSize.bits : ElemSize → BitVec 1
  | .d => 0
  | .q => 1

/-- The mode field of DMX (R75). -/
def DmxMode.bits : DmxMode → BitVec 3
  | .ref => 0
  | .scalar => 1
  | .t4 => 2
  | .t8 => 3
  | .t16 => 4

/-- The number of a CSR (10_state.md R28). -/
def Csr.number : Csr → BitVec 8
  | .ctrl => 0x00
  | .status => 0x01
  | .entry => 0x02
  | .pc => 0x03
  | .id => 0x04
  | .cfg => 0x05
  | .faultPc => 0x06
  | .faultInfo => 0x07
  | .nts => 0x08
  | .dsz => 0x09
  | .src => 0x0A
  | .slen => 0x0B
  | .dtab => 0x0C
  | .dcnt => 0x0D
  | .dtab2 => 0x0E

/-- Format I (R70). -/
def encodeI (op : BitVec 6) (ra rb : AReg) (imm16 : BitVec 16) : Word :=
  op ++ aregBits ra ++ aregBits rb ++ 0#4 ++ imm16

/-- Format R (R71). -/
def encodeR (op : BitVec 6) (ra rb rc : AReg) : Word :=
  op ++ aregBits ra ++ aregBits rb ++ aregBits rc ++ 0#17

/-- Format C (R72). -/
def encodeC (op : BitVec 6) (ra : AReg) (csr : Csr) : Word :=
  op ++ aregBits ra ++ 0#15 ++ csr.number

/-- Format VM (R73). -/
def encodeVM (op : BitVec 6) (b25 : BitVec 1) (v0 : VReg) (ra : AReg) (lane : Fin 8) (imm12 : BitVec 12) : Word :=
  op ++ b25 ++ vregBits v0 ++ aregBits ra ++ laneBits lane ++ 0#3 ++ imm12

/-- Format VR (R74). -/
def encodeVR (op : BitVec 6) (w : Width) (v0 v1 v2 v3 : VReg) (imm8 : BitVec 8) : Word :=
  op ++ w.bits ++ vregBits v0 ++ vregBits v1 ++ vregBits v2 ++ vregBits v3 ++ 0#1 ++ imm8

/-- The word of an instruction, by the format tables and the opcode map (R69 to R75, R78). -/
def encode : Instr → Word
  | .nop => 0x01#6 ++ 0#26
  | .halt => 0x02#6 ++ 0#26
  | .j imm16 => encodeI 0x04 0 0 imm16
  | .dbnz ra imm16 => encodeI 0x05 ra 0 imm16
  | .bne ra rb imm16 => encodeI 0x06 ra rb imm16
  | .li ra imm16 => encodeI 0x08 ra 0 imm16
  | .lih ra imm16 => encodeI 0x09 ra 0 imm16
  | .addi ra rb imm16 => encodeI 0x0A ra rb imm16
  | .add ra rb rc => encodeR 0x0B ra rb rc
  | .ldw ra rb imm16 => encodeI 0x0C ra rb imm16
  | .stw ra rb imm16 => encodeI 0x0D ra rb imm16
  | .csrr ra csr => encodeC 0x0E ra csr
  | .csrw ra csr => encodeC 0x0F ra csr
  | .vld w v0 ra imm12 => encodeVM 0x10 w.bits v0 ra 0 imm12
  | .vst w v0 ra imm12 => encodeVM 0x11 w.bits v0 ra 0 imm12
  | .vldl sz v0 ra lane imm12 => encodeVM 0x12 sz.bits v0 ra lane imm12
  | .vstl sz v0 ra lane imm12 => encodeVM 0x13 sz.bits v0 ra lane imm12
  | .tr4b w v0 v1 => encodeVR 0x18 w v0 v1 0 0 0
  | .shufd w v0 v1 v2 imm8 => encodeVR 0x19 w v0 v1 v2 0 imm8
  | .tr4d w v0 v1 v2 v3 => encodeVR 0x1A w v0 v1 v2 v3 0
  | .tr8b w v0 v1 v2 v3 => encodeVR 0x1B w v0 v1 v2 v3 0
  | .tr16b w => encodeVR 0x1C w 0 0 0 0 0
  | .vmov w v0 v1 => encodeVR 0x1D w v0 v1 0 0 0
  | .vinsh v0 v1 => encodeVR 0x1E .x v0 v1 0 0 0
  | .vexth v0 v1 => encodeVR 0x1F .x v0 v1 0 0 0
  | .dmx w mode => 0x20#6 ++ w.bits ++ mode.bits ++ 0#22
  | .dcmp ra => encodeR 0x21 ra 0 0

/-- The instruction the decoder reads from the word whose bits are `w`, bits at and above `nbits` zero. Every TRX
instruction is one 32-bit word (R67); a number that does not fit in it is none. -/
def decodeTableWord (nbits w : Nat) : Option Instr :=
  if w < 2 ^ nbits ∧ w < 2 ^ 32 then (decode (BitVec.ofNat 32 w)).toOption else none

end Sys2Proof
end

