-- ==== Sys2Proof/Config.lean ====
section
/-!
DEFINITION. What an implementation of TRX fixes (00_scope.md R6) and the free values the spec leaves open
(93_implementation_defined.md, section 1). A free value is a constant with no body: nothing can be proved of it, so a
claim holds whatever it is. Each is applied to a counter of State, so that two events need not agree.
-/

namespace Sys2Proof

/-- The two parameters of TRX, each a power of two held as its base-2 logarithm (R6, R34). -/
structure Params where
  /-- log2 of IMEM_WORDS, 6 to 14 -/
  imemLog2 : Nat
  /-- log2 of DMEM_BYTES, 12 to 20 -/
  dmemLog2 : Nat
deriving DecidableEq, Repr

/-- IMEM_WORDS, the number of 32-bit words of instruction memory (R6). -/
def Params.imemWords (p : Params) : Nat := 2 ^ p.imemLog2

/-- DMEM_BYTES, the number of bytes of data memory (R6). -/
def Params.dmemBytes (p : Params) : Nat := 2 ^ p.dmemLog2

/-- The legal values: IMEM_WORDS from 64 to 16384, DMEM_BYTES from 4096 to 1048576 (R6). -/
abbrev Params.legal (p : Params) : Prop :=
  (6 ≤ p.imemLog2 ∧ p.imemLog2 ≤ 14) ∧ (12 ≤ p.dmemLog2 ∧ p.dmemLog2 ≤ 20)

/-- The default parameters: 1024 words and 65536 bytes (R6). -/
def Params.default : Params := { imemLog2 := 10, dmemLog2 := 16 }

/-- The value of a DMEM byte that nothing has written since a power-on: any value, by power-on and address
(U1, U2; R57, R160). DESIGN CHOICE in form, safe: log 2. -/
opaque Config.unwrittenByte : Nat → Nat → Byte

/-- The value of an IMEM word that nothing has written since a power-on: any value, by power-on and word index
(U1; R160). DESIGN CHOICE in form, safe: log 2. -/
opaque Config.unwrittenWord : Nat → Nat → Word

/-- The value DMX leaves in a byte that lies in an overlap of its buffers: any value, by event and address
(U6; R61, R89). DESIGN CHOICE in form, safe: log 8. -/
opaque Config.overlapByte : Nat → Nat → Byte

/-- The value of a byte that a store interrupted by a soft reset was writing: any value, by event and address
(U3; R161). DESIGN CHOICE in form, safe: log 9. -/
opaque Config.abortedByte : Nat → Nat → Byte

/-- What a host read of IMEM or DMEM gets while the sequencer runs: any value, by event and host offset
(U4; R66, R151). DESIGN CHOICE in form, safe: log 10. -/
opaque Config.busyWord : Nat → Nat → Word

end Sys2Proof
end

