-- ==== Sys2Proof/Machine/State.lean ====
section
/-!
DEFINITION. The state of TRX as plain data (10_state.md R16 to R45; 20_memory.md R46 to R48), the reasons a step can stop,
and the state after a power-on reset. The operations over it are in the other files of this folder.
-/

namespace Sys2Proof.Machine

/-- The fault causes of TRX (60_exceptions.md R136), codes 1 to 10 in this order. They are architectural: raising one is
a next state (R141), not a stop of the model. -/
inductive Cause where
  | illegalInstruction
  | fetchRange
  | misaligned
  | memRange
  | preShape
  | preMultiple
  | preTile
  | preCount
  | preDlen
  | preAlign
deriving DecidableEq, Repr

/-- A fault about to be taken: its cause and the value FAULT_INFO records (R136). -/
structure Trap where
  cause : Cause
  info : Word
deriving DecidableEq, Repr

/-- One transaction of the host with TRX (60_exceptions.md R149). Offsets are byte offsets of the host port. -/
inductive HostAction where
  /-- read the 32-bit word at an offset -/
  | read (off : Nat)
  /-- write a 32-bit word at an offset -/
  | write (off : Nat) (v : Word)
  /-- pulse the power-on reset input (70_reset_and_hazards.md R160) -/
  | powerOn
deriving DecidableEq, Repr

/-- Whose turn is next: a transaction of the host, or one instruction of the sequencer. The list of pending turns is the
model's own (log 4). -/
inductive Turn where
  | host (a : HostAction)
  | sequencer
deriving DecidableEq, Repr

/-- The architectural state of one TRX block (R16), and below it the model's own fields. -/
structure State where
  /-- IMEM_WORDS and DMEM_BYTES; no step writes them (00_scope.md R6; log 1) -/
  params : Params
  /-- A0 to A7 (R17); slot 0 is never read nor written (log 21) -/
  a : Vector Word 8
  /-- V0 to V15 (R19) -/
  v : Vector Tile 16
  /-- the program counter, and the CSR PC (R22, R32; log 7) -/
  pc : Word
  /-- CTRL.IE, the interrupt enable (R29) -/
  ie : Bool
  /-- STATUS.RUN (R30) -/
  run : Bool
  /-- STATUS.DONE (R30) -/
  done : Bool
  /-- STATUS.FAULT (R30) -/
  fault : Bool
  /-- STATUS.CAUSE, bits 7:4 (R30) -/
  cause : BitVec 4
  /-- CSR ENTRY; bits 1:0 are hard-wired zero (R31) -/
  entry : Word
  /-- CSR FAULT_PC (R35) -/
  faultPc : Word
  /-- CSR FAULT_INFO (R36) -/
  faultInfo : Word
  /-- CSR NTS, the channel count (R37) -/
  nts : Word
  /-- CSR DSZ, the bytes per channel (R38) -/
  dsz : Word
  /-- CSR SRC, the source base (R39) -/
  src : Word
  /-- CSR SLEN, the source length (R40) -/
  slen : Word
  /-- CSR DTAB, the destination table base (R41) -/
  dtab : Word
  /-- CSR DCNT, the destination table length (R42) -/
  dcnt : Word
  /-- CSR DTAB2, the second destination table base (R43) -/
  dtab2 : Word
  /-- IMEM: the written words by word index, indexes strictly rising (20_memory.md R47; log 3) -/
  imem : List (Nat × Word)
  /-- DMEM: the written bytes by address, addresses strictly rising (20_memory.md R48; log 3) -/
  dmem : List Host.Cell
  /-- the model's own: which power-on the unwritten bytes and words come from (log 2) -/
  fillSeed : Nat
  /-- the model's own: read and advanced by every event with an unspecified value (log 8, 9, 10) -/
  freshSeed : Nat
  /-- the model's own: the pending turns, the next one first (log 4) -/
  turns : List Turn
  /-- the model's own: the word the last host read got back (R149; log 11) -/
  portData : Word
deriving DecidableEq, Repr

/-- The reasons the model stops with a fault: there is none. Every fault of TRX is precise, ends the run and leaves a
next state (60_exceptions.md R134, R135, R141; log 17). Safe: no behaviour of the hardware is cut off. -/
inductive Fault where
deriving DecidableEq, Repr

/-- The reasons the model refuses an instruction. -/
inductive Refusal where
  /-- Raised by an arm of exec whose instruction has no meaning yet; no arm does. Safe: the model stops where the hardware
  goes on. -/
  | notModelled (mnemonic : String)
deriving DecidableEq, Repr

/-- What an instruction or a step answers. -/
abbrev Result := Host.Outcome State Fault Refusal

/-- The machine right after a power-on reset with the default parameters (10_state.md R45; 70_reset_and_hazards.md R160):
idle, every register and CSR at its reset value, nothing written in either memory. The last four fields are the model's
own (DESIGN CHOICE, log 11). -/
def State.reset : State where
  params := Params.default
  a := Vector.replicate 8 0
  v := Vector.replicate 16 (Vector.replicate 32 0)
  pc := 0
  ie := false
  run := false
  done := false
  fault := false
  cause := 0
  entry := 0
  faultPc := 0
  faultInfo := 0
  nts := 32
  dsz := 64
  src := 0
  slen := 2048
  dtab := 0
  dcnt := 32
  dtab2 := 0
  imem := []
  dmem := []
  fillSeed := 0
  freshSeed := 1
  turns := []
  portData := 0

end Sys2Proof.Machine
end

