-- ==== Sys2Proof/Machine/Memory.lean ====
section
/-!
DEFINITION. A memory as a list of (address, contents) pairs, addresses strictly rising; an unlisted address has never been
written (log 2, 3). One text serves DMEM (bytes by address) and IMEM (words by index).
-/

namespace Sys2Proof.Machine

/-- What was last written at address `a`, or none where nothing has been (20_memory.md R57). -/
def Memory.lookup {w : Nat} : List (Nat × BitVec w) → Nat → Option (BitVec w)
  | [], _ => none
  | (k, x) :: m, a => if k = a then some x else Memory.lookup m a

/-- The pairs `(a, x0), (a+1, x1), …` of a block at `a`. -/
def Memory.block {w : Nat} : Nat → List (BitVec w) → List (Nat × BitVec w)
  | _, [] => []
  | a, x :: xs => (a, x) :: Memory.block (a + 1) xs

/-- Write a block at `a`: the entries below it, the block, and the entries above it; what stood in its addresses goes. -/
def Memory.write {w : Nat} (m : List (Nat × BitVec w)) (a : Nat) (xs : List (BitVec w)) : List (Nat × BitVec w) :=
  m.filter (fun c => decide (c.1 < a)) ++ Memory.block a xs ++ m.filter (fun c => decide (a + xs.length ≤ c.1))

/-- The canonical form: addresses strictly rising, so that no address is listed twice and equal memories are equal lists.
An unlisted address reads as "nothing written", which no entry says. -/
def Memory.wf {w : Nat} : List (Nat × BitVec w) → Bool
  | [] => true
  | [_] => true
  | (k, _) :: (l, y) :: m => decide (k < l) && Memory.wf ((l, y) :: m)

/-- Every listed address is below `n`. -/
def Memory.below {w : Nat} (n : Nat) (m : List (Nat × BitVec w)) : Bool := m.all (fun c => decide (c.1 < n))

end Sys2Proof.Machine
end

