-- ==== Sys2Proof/Machine/Tiles.lean ====
section
/-!
DEFINITION. The views of a tile register (00_scope.md R9; 20_memory.md R51) and how a tile is built half by half
(10_state.md R20; 41_transpose.md R98).
-/

namespace Sys2Proof

/-- The view `B[k]`, k = 0..31 (R9). No instruction reaches a byte outside that range. -/
def Tile.byte (t : Tile) (k : Nat) : Byte := t[k]?.getD 0

/-- The view `D[j]`, j = 0..7: bytes `4j .. 4j+3`, the first least significant (R9, R51). -/
def Tile.dword (t : Tile) (j : Nat) : Word :=
  wordOfBytes (t.byte (4 * j)) (t.byte (4 * j + 1)) (t.byte (4 * j + 2)) (t.byte (4 * j + 3))

/-- The view `Q[q]`, q = 0..3: bytes `8q .. 8q+7`, the first least significant (R9, R51). -/
def Tile.qword (t : Tile) (q : Nat) : BitVec 64 := t.dword (2 * q + 1) ++ t.dword (2 * q)

/-- The view `H[h]`, h = 0..1: the 16 bytes of a half, as a number (R9). -/
def Tile.half (t : Tile) (h : Nat) : BitVec 128 := t.qword (2 * h + 1) ++ t.qword (2 * h)

/-- The tile whose byte k is `f k`. -/
def Tile.ofBytes (f : Nat → Byte) : Tile := Vector.ofFn (fun k => f k.val)

/-- The tile whose doubleword j is `f j` (R51). -/
def Tile.ofDwords (f : Nat → Word) : Tile := Tile.ofBytes (fun k => wordByte (f (k / 4)) (k % 4))

/-- The tile `t` with the bytes from `off` on replaced by `bs`, every other byte kept (R9: writing a view changes only the
bits it names). -/
def Tile.setBytes (t : Tile) (off : Nat) (bs : List Byte) : Tile :=
  Tile.ofBytes (fun k => if off ≤ k ∧ k < off + bs.length then bs.getD (k - off) 0 else t.byte k)

/-- Width form of a byte operation: byte k of half h of the result is `f h k`; with W = 0 half 1 is zero (R20, R98). -/
def Tile.byHalves (w : Width) (f : Nat → Nat → Byte) : Tile :=
  Tile.ofBytes (fun i => if i < 16 then f 0 i else match w with
    | .x => 0
    | .y => f 1 (i - 16))

/-- Width form of a doubleword operation: doubleword j of half h of the result is `f h j`; with W = 0 half 1 is zero
(R20, R98). -/
def Tile.byHalvesD (w : Width) (f : Nat → Nat → Word) : Tile :=
  Tile.ofDwords (fun j => if j < 4 then f 0 j else match w with
    | .x => 0
    | .y => f 1 (j - 4))

end Sys2Proof
end

