-- ==== Sys2Proof/Machine/Ops.lean ====
section
/-!
DEFINITION. The named operations over registers, memory and the pc, checking an access, and taking a fault
(10_state.md R17, R22; 20_memory.md R48 to R57; 60_exceptions.md R135 to R141). TRX has no return from a fault but the
host's START (R143), which is in HostPort.lean.
-/

namespace Sys2Proof.Machine

/-! ### Registers -/

/-- `A[r]`; A0 reads 0 (R17). -/
def State.readA (s : State) (r : AReg) : Word := if r = 0 then 0 else s.a[r]

/-- `A[r] <- x`; a write to A0 is discarded (R17). -/
def State.writeA (s : State) (r : AReg) (x : Word) : State :=
  { s with a := if r = 0 then s.a else s.a.set r x }

/-- `V[r]` (R19). -/
def State.readV (s : State) (r : VReg) : Tile := s.v[r]

/-- `V[r] <- t` (R19). -/
def State.writeV (s : State) (r : VReg) (t : Tile) : State := { s with v := s.v.set r t }

/-- `pc <- p` (R12). -/
def State.setPc (s : State) (p : Word) : State := { s with pc := p }

/-- `pc <- pc + 4` modulo 2^32, what an instruction that does not branch does (R12, R22). -/
def State.advance (s : State) : State := s.setPc (s.pc + 4)

/-! ### Data memory -/

/-- `MemRead(a, 1)`: the last byte written at `a`, or a free value where nothing has been written (R11, R57; log 2). -/
def State.byteAt (s : State) (a : Nat) : Byte := (Memory.lookup s.dmem a).getD (Config.unwrittenByte s.fillSeed a)

/-- `MemReadBytes(a, n)` (R11). -/
def State.bytesAt (s : State) (a n : Nat) : List Byte := (List.range n).map (fun k => s.byteAt (a + k))

/-- `MemRead(a, 4)`, little-endian (R11, R50). -/
def State.wordAt (s : State) (a : Nat) : Word :=
  wordOfBytes (s.byteAt a) (s.byteAt (a + 1)) (s.byteAt (a + 2)) (s.byteAt (a + 3))

/-- `MemWriteBytes(a, n, bs)` (R11). -/
def State.storeBytes (s : State) (a : Nat) (bs : List Byte) : State := { s with dmem := Memory.write s.dmem a bs }

/-- The two checks of an access of `n` bytes at `ea`, in order: alignment, then range on unbounded integers. An access that
passes both is at the address answered (R48, R52 to R54, R111). -/
def State.checkAccess (s : State) (ea : Word) (n : Nat) : Except Trap Nat :=
  if ea.toNat % n ≠ 0 then .error ⟨.misaligned, ea⟩
  else if ea.toNat + n > s.params.dmemBytes then .error ⟨.memRange, ea⟩
  else .ok ea.toNat

/-! ### Instruction memory -/

/-- The IMEM word of index `k`, or a free value where nothing has been written (R47; log 2). -/
def State.imemWord (s : State) (k : Nat) : Word := (Memory.lookup s.imem k).getD (Config.unwrittenWord s.fillSeed k)

/-! ### Taking a fault -/

/-- The cause codes of STATUS.CAUSE (R136). -/
def Cause.code : Cause → BitVec 4
  | .illegalInstruction => 1
  | .fetchRange => 2
  | .misaligned => 3
  | .memRange => 4
  | .preShape => 5
  | .preMultiple => 6
  | .preTile => 7
  | .preCount => 8
  | .preDlen => 9
  | .preAlign => 10

/-- Fault entry (R141): the run ends, STATUS, FAULT_PC and FAULT_INFO record the fault, and nothing else changes. The CSR PC
is the pc, which stays at the faulting instruction. -/
def State.raise (s : State) (t : Trap) : State :=
  { s with
    run := false
    fault := true
    cause := t.cause.code
    faultPc := s.pc
    faultInfo := t.info }

/-- Go on where the checks passed, take the fault where one failed (R12, R135). -/
def State.orRaise {α : Type} (s : State) (r : Except Trap α) (k : α → State) : Result :=
  match r with
  | .ok x => .next (k x)
  | .error t => .next (s.raise t)

/-- An operand combination that R79 forbids raises ILLEGAL_INSTRUCTION with the instruction's word, before any effect
(R79, R138; log 13). The decoder never answers such an instruction. -/
def State.ifLegal (s : State) (i : Instr) (r : Result) : Result :=
  if WellFormed i then r else .next (s.raise ⟨.illegalInstruction, encode i⟩)

/-! ### Fetch -/

/-- Fetch and decode at the pc: FETCH_RANGE on unbounded integers, before any decode; then ILLEGAL_INSTRUCTION with the
word (R137 to R139, R67). -/
def State.fetch (s : State) : Except Trap Instr :=
  if s.pc.toNat + 4 > 4 * s.params.imemWords then .error ⟨.fetchRange, s.pc⟩
  else match decode (s.imemWord (s.pc.toNat / 4)) with
    | .ok i => .ok i
    | .error _ => .error ⟨.illegalInstruction, s.imemWord (s.pc.toNat / 4)⟩

end Sys2Proof.Machine
end

