-- ==== Sys2Proof/Machine/Flags.lean ====
section
/-!
DEFINITION. TRX has no condition codes and no instruction computes one (10_state.md R23). What it has is the run state of
STATUS and the interrupt enable of CTRL: how their words read (R29, R30), the IRQ level (60_exceptions.md R146), and how
HALT and START move them (44_sequencer.md R121; 60_exceptions.md R152).
-/

namespace Sys2Proof.Machine

/-- A flag as one bit. -/
def bitOf (b : Bool) : BitVec 1 := if b then 1 else 0

/-- STATUS: RUN 0, DONE 1, FAULT 2, CAUSE 7:4, every other bit 0 (R30). -/
def State.statusWord (s : State) : Word :=
  0#24 ++ s.cause ++ 0#1 ++ bitOf s.fault ++ bitOf s.done ++ bitOf s.run

/-- CTRL: IE in bit 1; START, SRST and the reserved bits read 0 (R29). -/
def State.ctrlWord (s : State) : Word := 0#30 ++ bitOf s.ie ++ 0#1

/-- The IRQ output, a level: `IE and (DONE or FAULT)` (R146). -/
def State.irq (s : State) : Bool := s.ie && (s.done || s.fault)

/-- HALT ends the run: RUN 0, DONE 1, the pc not advanced (R121). -/
def State.endRun (s : State) : State := { s with run := false, done := true }

/-- START: DONE, FAULT and CAUSE cleared, the pc at ENTRY, RUN 1 (R152). -/
def State.start (s : State) : State :=
  { s with
    done := false
    fault := false
    cause := 0
    pc := s.entry
    run := true }

end Sys2Proof.Machine
end

