-- ==== Sys2Proof/Machine/Csrs.lean ====
section
/-!
DEFINITION. Reading and writing the CSRs (10_state.md R25 to R44).
-/

namespace Sys2Proof.Machine

/-- CFG: log2(IMEM_WORDS) in bits 7:0, log2(DMEM_BYTES) in bits 15:8, the rest 0 (R34). -/
def State.cfgWord (s : State) : Word :=
  0#16 ++ BitVec.ofNat 8 s.params.dmemLog2 ++ BitVec.ofNat 8 s.params.imemLog2

/-- `CSR[c]` as the program and the host read it (R28 to R43). PC is the address of the instruction being executed, or
where the last run stopped (R32). -/
def State.csrRead (s : State) : Csr → Word
  | .ctrl => s.ctrlWord
  | .status => s.statusWord
  | .entry => s.entry
  | .pc => s.pc
  | .id => 0x54525831
  | .cfg => s.cfgWord
  | .faultPc => s.faultPc
  | .faultInfo => s.faultInfo
  | .nts => s.nts
  | .dsz => s.dsz
  | .src => s.src
  | .slen => s.slen
  | .dtab => s.dtab
  | .dcnt => s.dcnt
  | .dtab2 => s.dtab2

/-- `CSR[c] <- x` for the seven CSRs that are RW to the program and the host (R26, R27, R37 to R43). The other CSRs are
not written this way and keep their value. -/
def State.csrWrite (s : State) (c : Csr) (x : Word) : State :=
  match c with
  | .nts => { s with nts := x }
  | .dsz => { s with dsz := x }
  | .src => { s with src := x }
  | .slen => { s with slen := x }
  | .dtab => { s with dtab := x }
  | .dcnt => { s with dcnt := x }
  | .dtab2 => { s with dtab2 := x }
  | .ctrl => s
  | .status => s
  | .entry => s
  | .pc => s
  | .id => s
  | .cfg => s
  | .faultPc => s
  | .faultInfo => s

end Sys2Proof.Machine
end

