-- ==== Sys2Proof/Machine/CsrAccess.lean ====
section
/-!
DEFINITION. The CSR instructions (44_sequencer.md R131, R132).
-/

namespace Sys2Proof.Machine

/-- CSRR (R131): every implemented CSR is readable; an unimplemented number is no Csr, and the decoder rejects it. -/
def execCsrr (ra : AReg) (csr : Csr) (s : State) : Result := .next (s.writeA ra (s.csrRead csr)).advance

/-- CSRW (R132): a CSR the program may not write raises ILLEGAL_INSTRUCTION with the word. -/
def execCsrw (ra : AReg) (csr : Csr) (s : State) : Result :=
  s.ifLegal (.csrw ra csr) (.next (s.csrWrite csr (s.readA ra)).advance)

end Sys2Proof.Machine
end

