-- ==== Sys2Proof/Machine/Operands.lean ====
section
/-!
DEFINITION. Operand forms: immediates, effective addresses, branch targets, access sizes, shuffle selectors
(30_encoding.md R76; 42_tile_memory.md R111; 44_sequencer.md R119).
-/

namespace Sys2Proof.Machine

/-- The effective address of LDW and STW: `A[rb] + sext_32(imm16)` modulo 2^32 (R76). -/
def State.ea16 (s : State) (rb : AReg) (imm16 : BitVec 16) : Word := s.readA rb + imm16.signExtend 32

/-- The effective address of the tile memory instructions: `A[ra] + sext_32(imm12)` modulo 2^32, not scaled (R76, R111). -/
def State.ea12 (s : State) (ra : AReg) (imm12 : BitVec 12) : Word := s.readA ra + imm12.signExtend 32

/-- `pc + (sext_32(imm16) << 2)` modulo 2^32, relative to the branch itself (R76, R119). -/
def State.branchTarget (s : State) (imm16 : BitVec 16) : Word := s.pc + (imm16.signExtend 32 <<< 2)

end Sys2Proof.Machine

namespace Sys2Proof

/-- The bytes a VLD or VST moves, and the tile width TW of a DMX (R68, R111, R86). -/
def Width.bytes : Width → Nat
  | .x => 16
  | .y => 32

/-- The bytes a VLDL or VSTL moves (R68, R111). -/
def ElemSize.bytes : ElemSize → Nat
  | .d => 4
  | .q => 8

/-- The 2-bit selector `s_k` of SHUFD, k = 0..3 (R76). -/
def selector (imm8 : BitVec 8) (k : Nat) : Nat := (imm8.extractLsb' (2 * k) 2).toNat

end Sys2Proof
end

