-- ==== Sys2Proof/Machine/Demux.lean ====
section
/-!
DEFINITION. The demultiplexer DMX (40_demux.md R84 to R97): the destination table, the twelve entry checks in order, the
result. The modes differ in their checks only (R90, R171).
-/

namespace Sys2Proof

/-- The tile row count R of the tile modes; REF and SCALAR have none (R86). -/
def DmxMode.tileRows : DmxMode → Option Nat
  | .ref => none
  | .scalar => none
  | .t4 => some 4
  | .t8 => some 8
  | .t16 => some 16

/-- Is a number not a multiple of the mode's tile row count? Never in REF and SCALAR (R88 check 3). -/
def DmxMode.rowsWrong (mode : DmxMode) (n : Nat) : Bool :=
  match mode.tileRows with
  | some r => decide (n % r ≠ 0)
  | none => false

/-- Is a number not a multiple of the tile width TW in a tile mode? Never in REF and SCALAR (R88 checks 4 and 10). -/
def DmxMode.tileWrong (mode : DmxMode) (w : Width) (n : Nat) : Bool :=
  match mode.tileRows with
  | some _ => decide (n % w.bytes ≠ 0)
  | none => false

end Sys2Proof

namespace Sys2Proof.Machine

/-- One entry of a destination table: the base and the length of a channel's buffer (R85). -/
structure DestEntry where
  addr : Word
  len : Word
deriving DecidableEq, Repr

/-- Entry c of the table at `base`, at address `base + 8c` (R85). -/
def State.tableEntry (s : State) (base c : Nat) : DestEntry :=
  { addr := s.wordAt (base + 8 * c), len := s.wordAt (base + 8 * c + 4) }

/-- DMX's table: the entries 0 .. n-1 at DTAB (R85; R88 check 8). -/
def State.dmxTable (s : State) : List DestEntry := (List.range s.nts.toNat).map (s.tableEntry s.dtab.toNat)

/-- ROWS, the bytes each destination buffer receives: SLEN / n in mode REF, DSZ in every other (R87). -/
def State.dmxRows (s : State) : DmxMode → Nat
  | .ref => s.slen.toNat / s.nts.toNat
  | .scalar | .t4 | .t8 | .t16 => s.dsz.toNat

/-- Check 2: the mode's shape precondition fails; the product is not wrapped (R86, R88, R133). -/
def State.dmxShapeWrong (s : State) : DmxMode → Bool
  | .ref => decide (s.slen.toNat % s.nts.toNat ≠ 0)
  | .scalar | .t4 | .t8 | .t16 => decide (s.slen.toNat ≠ s.nts.toNat * s.dsz.toNat)

/-- Checks 1 to 7 of R88, the first that fails. -/
def State.dmxShapeTrap (s : State) (w : Width) (mode : DmxMode) : Option Trap :=
  if s.nts = 0 then some ⟨.preShape, s.slen⟩
  else if s.dmxShapeWrong mode then some ⟨.preShape, s.slen⟩
  else if mode.rowsWrong s.nts.toNat then some ⟨.preMultiple, s.nts⟩
  else if mode.tileWrong w s.dsz.toNat then some ⟨.preTile, s.dsz⟩
  else if s.dcnt ≠ s.nts then some ⟨.preCount, s.dcnt⟩
  else if s.dtab.toNat % 4 ≠ 0 then some ⟨.misaligned, s.dtab⟩
  else if s.dtab.toNat + 8 * s.nts.toNat > s.params.dmemBytes then some ⟨.memRange, s.dtab⟩
  else none

/-- Check 9 from channel c on: the first channel whose length is not ROWS (R88). -/
def lengthTrap (rows : Nat) : Nat → List DestEntry → Option Trap
  | _, [] => none
  | c, e :: es => if e.len.toNat ≠ rows then some ⟨.preDlen, BitVec.ofNat 32 c⟩ else lengthTrap rows (c + 1) es

/-- Check 10: SRC, then the first buffer base, that is not a multiple of TW; tile modes only (R88). -/
def State.alignTrap (s : State) (w : Width) (mode : DmxMode) (es : List DestEntry) : Option Trap :=
  if mode.tileWrong w s.src.toNat then some ⟨.preAlign, s.src⟩
  else (es.find? fun e => mode.tileWrong w e.addr.toNat).map fun e => ⟨.preAlign, e.addr⟩

/-- Checks 11 and 12: the source range, then the first destination range, that passes the end of DMEM (R88). -/
def State.rangeTrap (s : State) (rows : Nat) (es : List DestEntry) : Option Trap :=
  if 0 < s.slen.toNat ∧ s.src.toNat + s.slen.toNat > s.params.dmemBytes then some ⟨.memRange, s.src⟩
  else (es.find? fun e => decide (0 < rows) && decide (e.addr.toNat + rows > s.params.dmemBytes)).map
    fun e => ⟨.memRange, e.addr⟩

/-- The twelve entry checks of R88, the first that fails. -/
def State.dmxTrap (s : State) (w : Width) (mode : DmxMode) : Option Trap :=
  s.dmxShapeTrap w mode <|> lengthTrap (s.dmxRows mode) 0 s.dmxTable <|> s.alignTrap w mode s.dmxTable <|>
    s.rangeTrap (s.dmxRows mode) s.dmxTable

/-- Is address x one of the `n` addresses from `base`? -/
def within (base n x : Nat) : Bool := decide (base ≤ x) && decide (x < base + n)

/-- Does the buffer of a channel other than c, in the table from channel k on, hold address x? -/
def inOtherBuffer (rows c x : Nat) : Nat → List DestEntry → Bool
  | _, [] => false
  | k, e :: es => (decide (k ≠ c) && within e.addr.toNat rows x) || inOtherBuffer rows c x (k + 1) es

/-- Does address x of channel c's buffer lie in an overlap: with the source, with the table, or with another channel's
buffer (R89)? -/
def State.dmxOverlap (s : State) (rows c x : Nat) : Bool :=
  within s.src.toNat s.slen.toNat x || within s.dtab.toNat (8 * s.nts.toNat) x || inOtherBuffer rows c x 0 s.dmxTable

/-- What DMX leaves in byte r of channel c's buffer at `addr`: `S[r * n + c]` (R90), or a free value in an overlap
(R89; log 8). -/
def State.dmxByte (s : State) (rows c addr r : Nat) : Byte :=
  if s.dmxOverlap rows c (addr + r) then Config.overlapByte s.freshSeed (addr + r)
  else s.byteAt (s.src.toNat + (r * s.nts.toNat + c))

/-- Write the buffers of the table from channel c on; every byte written is computed in the state `s` in which DMX began
(R90, R91). -/
def State.dmxWrite (s : State) (rows : Nat) : Nat → List DestEntry → State → State
  | _, [], t => t
  | c, e :: es, t =>
    s.dmxWrite rows (c + 1) es
      (t.storeBytes e.addr.toNat ((List.range rows).map (s.dmxByte rows c e.addr.toNat)))

/-- The result of a DMX whose checks passed; the model's counter of free values advances (R90 to R93; log 8). -/
def State.dmxDone (s : State) (mode : DmxMode) : State :=
  let t := s.dmxWrite (s.dmxRows mode) 0 s.dmxTable s
  State.advance { t with freshSeed := s.freshSeed + 1 }

/-- DMX (R93). -/
def execDmx (w : Width) (mode : DmxMode) (s : State) : Result :=
  s.ifLegal (.dmx w mode) <|
    match s.dmxTrap w mode with
    | some t => .next (s.raise t)
    | none => .next (s.dmxDone mode)

end Sys2Proof.Machine
end

