-- ==== Sys2Proof/Machine/Oracle.lean ====
section
/-!
DEFINITION. The oracle comparison DCMP (43_oracle.md R116 to R118).
-/

namespace Sys2Proof.Machine

/-- The four checks of the tables, in order (R117). -/
def State.dcmpTrap (s : State) : Option Trap :=
  if s.dtab.toNat % 4 ≠ 0 then some ⟨.misaligned, s.dtab⟩
  else if s.dtab2.toNat % 4 ≠ 0 then some ⟨.misaligned, s.dtab2⟩
  else if s.dtab.toNat + 8 * s.dcnt.toNat > s.params.dmemBytes then some ⟨.memRange, s.dtab⟩
  else if s.dtab2.toNat + 8 * s.dcnt.toNat > s.params.dmemBytes then some ⟨.memRange, s.dtab2⟩
  else none

/-- What channel c of the two sets shows: a range fault, a difference, or neither (R117). -/
def State.dcmpChannel (s : State) (c : Nat) : Except Trap Bool :=
  let e := s.tableEntry s.dtab.toNat c
  let f := s.tableEntry s.dtab2.toNat c
  let l := e.len.toNat
  if e.len ≠ f.len then .ok true
  else if 0 < l ∧ e.addr.toNat + l > s.params.dmemBytes then .error ⟨.memRange, e.addr⟩
  else if 0 < l ∧ f.addr.toNat + l > s.params.dmemBytes then .error ⟨.memRange, f.addr⟩
  else .ok (decide (s.bytesAt e.addr.toNat l ≠ s.bytesAt f.addr.toNat l))

/-- The scan of `k` channels from channel c: the first that differs, or 0xFFFF_FFFF; channels after it are not examined
(R117). -/
def State.dcmpScan (s : State) : Nat → Nat → Except Trap Word
  | _, 0 => .ok 0xFFFFFFFF
  | c, k + 1 =>
    match s.dcmpChannel c with
    | .error t => .error t
    | .ok true => .ok (BitVec.ofNat 32 c)
    | .ok false => s.dcmpScan (c + 1) k

/-- DCMP (R117). -/
def execDcmp (ra : AReg) (s : State) : Result :=
  match s.dcmpTrap with
  | some t => .next (s.raise t)
  | none => s.orRaise (s.dcmpScan 0 s.dcnt.toNat) fun verdict => (s.writeA ra verdict).advance

end Sys2Proof.Machine
end

