-- ==== Sys2Proof/Machine/ScalarMemory.lean ====
section
/-!
DEFINITION. The scalar load and store (44_sequencer.md R129, R130).
-/

namespace Sys2Proof.Machine

/-- LDW (R129): the checks are made for A0 too, then the value is discarded. -/
def execLdw (ra rb : AReg) (imm16 : BitVec 16) (s : State) : Result :=
  s.orRaise (s.checkAccess (s.ea16 rb imm16) 4) fun a => (s.writeA ra (s.wordAt a)).advance

/-- STW (R130). -/
def execStw (ra rb : AReg) (imm16 : BitVec 16) (s : State) : Result :=
  s.orRaise (s.checkAccess (s.ea16 rb imm16) 4) fun a => (s.storeBytes a (wordBytes (s.readA ra))).advance

end Sys2Proof.Machine
end

