-- ==== Sys2Proof/Machine/Sequencer.lean ====
section
/-!
DEFINITION. The sequencing and scalar arithmetic instructions (44_sequencer.md R119 to R128, R133).
-/

namespace Sys2Proof.Machine

/-- NOP (R120). -/
def execNop (s : State) : Result := .next s.advance

/-- HALT (R121). -/
def execHalt (s : State) : Result := .next s.endRun

/-- J (R122). -/
def execJ (imm16 : BitVec 16) (s : State) : Result := .next (s.setPc (s.branchTarget imm16))

/-- DBNZ (R123): the test is on the decremented value, which is 0xFFFF_FFFF where the counter is A0. -/
def execDbnz (ra : AReg) (imm16 : BitVec 16) (s : State) : Result :=
  let t := s.readA ra - 1
  .next ((s.writeA ra t).setPc (if t ≠ 0 then s.branchTarget imm16 else s.pc + 4))

/-- BNE (R124). -/
def execBne (ra rb : AReg) (imm16 : BitVec 16) (s : State) : Result :=
  .next (s.setPc (if s.readA ra ≠ s.readA rb then s.branchTarget imm16 else s.pc + 4))

/-- LI (R125). -/
def execLi (ra : AReg) (imm16 : BitVec 16) (s : State) : Result :=
  .next (s.writeA ra (imm16.zeroExtend 32)).advance

/-- LIH (R126). -/
def execLih (ra : AReg) (imm16 : BitVec 16) (s : State) : Result :=
  .next (s.writeA ra (imm16 ++ (s.readA ra).extractLsb' 0 16)).advance

/-- ADDI (R127). -/
def execAddi (ra rb : AReg) (imm16 : BitVec 16) (s : State) : Result :=
  .next (s.writeA ra (s.readA rb + imm16.signExtend 32)).advance

/-- ADD (R128). -/
def execAdd (ra rb rc : AReg) (s : State) : Result :=
  .next (s.writeA ra (s.readA rb + s.readA rc)).advance

end Sys2Proof.Machine
end

