-- ==== Sys2Proof/Machine/TileMemory.lean ====
section
/-!
DEFINITION. The tile loads and stores (42_tile_memory.md R111 to R115).
-/

namespace Sys2Proof.Machine

/-- VLD (R112): with W = 0 half 1 becomes zero. -/
def execVld (w : Width) (v0 : VReg) (ra : AReg) (imm12 : BitVec 12) (s : State) : Result :=
  s.orRaise (s.checkAccess (s.ea12 ra imm12) w.bytes) fun a =>
    (s.writeV v0 (Tile.ofBytes fun k => if k < w.bytes then s.byteAt (a + k) else 0)).advance

/-- VST (R113): with W = 0 only bytes 0..15 are stored. -/
def execVst (w : Width) (v0 : VReg) (ra : AReg) (imm12 : BitVec 12) (s : State) : Result :=
  s.orRaise (s.checkAccess (s.ea12 ra imm12) w.bytes) fun a =>
    (s.storeBytes a ((List.range w.bytes).map (s.readV v0).byte)).advance

/-- VLDL (R114): every other byte of the register keeps its value. -/
def execVldl (sz : ElemSize) (v0 : VReg) (ra : AReg) (lane : Fin 8) (imm12 : BitVec 12) (s : State) : Result :=
  s.ifLegal (.vldl sz v0 ra lane imm12) <|
    s.orRaise (s.checkAccess (s.ea12 ra imm12) sz.bytes) fun a =>
      (s.writeV v0 ((s.readV v0).setBytes (sz.bytes * lane.val) (s.bytesAt a sz.bytes))).advance

/-- VSTL (R115). -/
def execVstl (sz : ElemSize) (v0 : VReg) (ra : AReg) (lane : Fin 8) (imm12 : BitVec 12) (s : State) : Result :=
  s.ifLegal (.vstl sz v0 ra lane imm12) <|
    s.orRaise (s.checkAccess (s.ea12 ra imm12) sz.bytes) fun a =>
      (s.storeBytes a ((List.range sz.bytes).map fun k => (s.readV v0).byte (sz.bytes * lane.val + k))).advance

end Sys2Proof.Machine
end

