-- ==== Sys2Proof/Machine/Transpose.lean ====
section
/-!
DEFINITION. The register-transpose primitives and tile moves (41_transpose.md R98 to R109). Each reads its sources in the
state before any write.
-/

namespace Sys2Proof.Machine

/-- The 4×4 transpose permutation P (00_scope.md R14), k = 0..15. -/
def permP (k : Nat) : Nat := [0, 4, 8, 12, 1, 5, 9, 13, 2, 6, 10, 14, 3, 7, 11, 15].getD k 0

/-- TR4B of one tile (R99). -/
def tr4bTile (w : Width) (t : Tile) : Tile := Tile.byHalves w fun h k => t.byte (16 * h + permP k)

/-- SHUFD of two tiles (R100): the low two doublewords come from the first source, the high two from the second. -/
def shufdTile (w : Width) (t1 t2 : Tile) (imm8 : BitVec 8) : Tile :=
  Tile.byHalvesD w fun h j => (if j < 2 then t1 else t2).dword (4 * h + selector imm8 j)

/-- Column j of TR4D over the rows `r 0 .. r 3` (R101; against vector TP-14, log 23). -/
def tr4dTile (w : Width) (r : Nat → Tile) (j : Nat) : Tile := Tile.byHalvesD w fun h i => (r i).dword (4 * h + j)

/-- The byte `M[row][col]` of half h of TR8B's input: rows 2i and 2i+1 are the low and high quadword of `r i` (R103). -/
def tr8bMatrix (r : Nat → Tile) (h row col : Nat) : Byte := (r (row / 2)).byte (16 * h + 8 * (row % 2) + col)

/-- Output k of TR8B: column k in the low quadword, column k+4 in the high (R103). -/
def tr8bTile (w : Width) (r : Nat → Tile) (k : Nat) : Tile :=
  Tile.byHalves w fun h b => if b < 8 then tr8bMatrix r h b k else tr8bMatrix r h (b - 8) (k + 4)

/-- Column c of TR16B over the rows `r 0 .. r 15` (R105). -/
def tr16bTile (w : Width) (r : Nat → Tile) (c : Nat) : Tile := Tile.byHalves w fun h k => (r k).byte (16 * h + c)

/-- VMOV of one tile (R107). -/
def vmovTile (w : Width) (t : Tile) : Tile := Tile.byHalves w fun h k => t.byte (16 * h + k)

/-- The four tiles of TR4D or TR8B in row order (R101, R103). -/
def State.rows (s : State) (v0 v1 v2 v3 : VReg) (i : Nat) : Tile :=
  match i with
  | 0 => s.readV v0
  | 1 => s.readV v1
  | 2 => s.readV v2
  | _ => s.readV v3

/-- The sixteen tiles of TR16B, row r in V[r] (R105). -/
def State.allRows (s : State) (r : Nat) : Tile := s.v[r]?.getD (Vector.replicate 32 0)

/-- Write `t 0 .. t 15` to V0 .. V15 (R105). -/
def State.writeAllRows (s : State) (t : Nat → Tile) : State :=
  { s with v := #v[t 0, t 1, t 2, t 3, t 4, t 5, t 6, t 7, t 8, t 9, t 10, t 11, t 12, t 13, t 14, t 15] }

/-- Write `t 0 .. t 3` to four registers, each computed before (R12, R98). -/
def State.writeRows (s : State) (v0 v1 v2 v3 : VReg) (t : Nat → Tile) : State :=
  (((s.writeV v0 (t 0)).writeV v1 (t 1)).writeV v2 (t 2)).writeV v3 (t 3)

/-- TR4B (R99). -/
def execTr4b (w : Width) (v0 v1 : VReg) (s : State) : Result := .next (s.writeV v0 (tr4bTile w (s.readV v1))).advance

/-- SHUFD (R100). -/
def execShufd (w : Width) (v0 v1 v2 : VReg) (imm8 : BitVec 8) (s : State) : Result :=
  .next (s.writeV v0 (shufdTile w (s.readV v1) (s.readV v2) imm8)).advance

/-- TR4D (R101). -/
def execTr4d (w : Width) (v0 v1 v2 v3 : VReg) (s : State) : Result :=
  s.ifLegal (.tr4d w v0 v1 v2 v3) <|
    .next (s.writeRows v0 v1 v2 v3 (tr4dTile w (s.rows v0 v1 v2 v3))).advance

/-- TR8B (R103). -/
def execTr8b (w : Width) (v0 v1 v2 v3 : VReg) (s : State) : Result :=
  s.ifLegal (.tr8b w v0 v1 v2 v3) <|
    .next (s.writeRows v0 v1 v2 v3 (tr8bTile w (s.rows v0 v1 v2 v3))).advance

/-- TR16B (R105): row r is V[r], column c goes to V[c]. -/
def execTr16b (w : Width) (s : State) : Result :=
  .next (s.writeAllRows (tr16bTile w s.allRows)).advance

/-- VMOV (R107). -/
def execVmov (w : Width) (v0 v1 : VReg) (s : State) : Result := .next (s.writeV v0 (vmovTile w (s.readV v1))).advance

/-- VINSH (R108): half 0 of V[v1] into half 1 of V[v0], half 0 kept. -/
def execVinsh (v0 v1 : VReg) (s : State) : Result :=
  .next (s.writeV v0 (Tile.ofBytes fun i => if i < 16 then (s.readV v0).byte i else (s.readV v1).byte (i - 16))).advance

/-- VEXTH (R109): half 1 of V[v1] into half 0 of V[v0], half 1 cleared. -/
def execVexth (v0 v1 : VReg) (s : State) : Result :=
  .next (s.writeV v0 (Tile.ofBytes fun i => if i < 16 then (s.readV v1).byte (16 + i) else 0)).advance

end Sys2Proof.Machine
end

