-- ==== Sys2Proof/Machine/Dispatch.lean ====
section
/-!
DEFINITION. The meaning of every instruction, one arm per constructor of Instr.
-/

namespace Sys2Proof.Machine

def exec (i : Instr) (s : State) : Host.Outcome State Fault Refusal :=
  match i with
  | .nop => Sys2Proof.Machine.execNop s
  | .halt => Sys2Proof.Machine.execHalt s
  | .j imm16 => Sys2Proof.Machine.execJ imm16 s
  | .dbnz ra imm16 => Sys2Proof.Machine.execDbnz ra imm16 s
  | .bne ra rb imm16 => Sys2Proof.Machine.execBne ra rb imm16 s
  | .li ra imm16 => Sys2Proof.Machine.execLi ra imm16 s
  | .lih ra imm16 => Sys2Proof.Machine.execLih ra imm16 s
  | .addi ra rb imm16 => Sys2Proof.Machine.execAddi ra rb imm16 s
  | .add ra rb rc => Sys2Proof.Machine.execAdd ra rb rc s
  | .ldw ra rb imm16 => Sys2Proof.Machine.execLdw ra rb imm16 s
  | .stw ra rb imm16 => Sys2Proof.Machine.execStw ra rb imm16 s
  | .csrr ra csr => Sys2Proof.Machine.execCsrr ra csr s
  | .csrw ra csr => Sys2Proof.Machine.execCsrw ra csr s
  | .vld w v0 ra imm12 => Sys2Proof.Machine.execVld w v0 ra imm12 s
  | .vst w v0 ra imm12 => Sys2Proof.Machine.execVst w v0 ra imm12 s
  | .vldl sz v0 ra lane imm12 => Sys2Proof.Machine.execVldl sz v0 ra lane imm12 s
  | .vstl sz v0 ra lane imm12 => Sys2Proof.Machine.execVstl sz v0 ra lane imm12 s
  | .tr4b w v0 v1 => Sys2Proof.Machine.execTr4b w v0 v1 s
  | .shufd w v0 v1 v2 imm8 => Sys2Proof.Machine.execShufd w v0 v1 v2 imm8 s
  | .tr4d w v0 v1 v2 v3 => Sys2Proof.Machine.execTr4d w v0 v1 v2 v3 s
  | .tr8b w v0 v1 v2 v3 => Sys2Proof.Machine.execTr8b w v0 v1 v2 v3 s
  | .tr16b w => Sys2Proof.Machine.execTr16b w s
  | .vmov w v0 v1 => Sys2Proof.Machine.execVmov w v0 v1 s
  | .vinsh v0 v1 => Sys2Proof.Machine.execVinsh v0 v1 s
  | .vexth v0 v1 => Sys2Proof.Machine.execVexth v0 v1 s
  | .dmx w mode => Sys2Proof.Machine.execDmx w mode s
  | .dcmp ra => Sys2Proof.Machine.execDcmp ra s

end Sys2Proof.Machine
end

