-- ==== Sys2Proof/Machine/Reset.lean ====
section
/-!
DEFINITION. The two resets of TRX (70_reset_and_hazards.md R159 to R161; 10_state.md R45).
-/

namespace Sys2Proof.Machine

/-- The DMEM blocks (base, length) an instruction writes in state `s`: those of STW, VST, VSTL and DMX where their checks
pass; none of an instruction that faults or writes no memory (R161; 60_exceptions.md R135). -/
def State.writtenBlocks (s : State) : Instr → List (Nat × Nat)
  | .stw _ rb imm16 =>
    match s.checkAccess (s.ea16 rb imm16) 4 with
    | .ok a => [(a, 4)]
    | .error _ => []
  | .vst w _ ra imm12 =>
    match s.checkAccess (s.ea12 ra imm12) w.bytes with
    | .ok a => [(a, w.bytes)]
    | .error _ => []
  | .vstl sz _ ra _ imm12 =>
    match s.checkAccess (s.ea12 ra imm12) sz.bytes with
    | .ok a => [(a, sz.bytes)]
    | .error _ => []
  | .dmx w mode =>
    match s.dmxTrap w mode with
    | none => s.dmxTable.map fun e => (e.addr.toNat, s.dmxRows mode)
    | some _ => []
  | .nop | .halt | .j _ | .dbnz _ _ | .bne _ _ _ | .li _ _ | .lih _ _ | .addi _ _ _ | .add _ _ _ | .ldw _ _ _
  | .csrr _ _ | .csrw _ _ | .vld _ _ _ _ | .vldl _ _ _ _ _ | .tr4b _ _ _ | .shufd _ _ _ _ _ | .tr4d _ _ _ _ _
  | .tr8b _ _ _ _ _ | .tr16b _ | .vmov _ _ _ | .vinsh _ _ | .vexth _ _ | .dcmp _ => []

/-- The blocks being written while STATUS.RUN = 1: those of the instruction at the pc; none while idle (R161; log 9). -/
def State.blocksInProgress (s : State) : List (Nat × Nat) :=
  if s.run then
    match s.fetch with
    | .ok i => s.writtenBlocks i
    | .error _ => []
  else []

/-- DMEM with every byte of the blocks at a free value (R161; log 9). -/
def Memory.abort (seed : Nat) : List (Nat × Nat) → List Host.Cell → List Host.Cell
  | [], m => m
  | (a, n) :: bs, m =>
    Memory.abort seed bs (Memory.write m a ((List.range n).map fun k => Config.abortedByte seed (a + k)))

/-- Every register and CSR at its reset value, the sequencer idle; the parameters, both memories and the model's own fields
kept (R45, R159). -/
def State.resetRegisters (s : State) : State :=
  { State.reset with
    params := s.params
    imem := s.imem
    dmem := s.dmem
    fillSeed := s.fillSeed
    freshSeed := s.freshSeed
    turns := s.turns
    portData := s.portData }

/-- Soft reset, CTRL.SRST (R161): registers and CSRs reset, memory kept but for the bytes the interrupted instruction was
writing. -/
def State.softReset (s : State) : State :=
  { s.resetRegisters with
    dmem := Memory.abort s.freshSeed s.blocksInProgress s.dmem
    freshSeed := s.freshSeed + 1 }

/-- Power-on reset (R160): registers and CSRs reset, both memories unspecified anew (log 2). -/
def State.powerOnReset (s : State) : State :=
  { s.resetRegisters with
    imem := []
    dmem := []
    fillSeed := s.freshSeed
    freshSeed := s.freshSeed + 1 }

end Sys2Proof.Machine
end

