-- ==== Sys2Proof/Machine/HostPort.lean ====
section
/-!
DEFINITION. The host's port: where an offset leads, host reads and writes, and the turns of the host
(60_exceptions.md R149 to R153; 10_state.md R26, R27, R29, R30, R44).
-/

namespace Sys2Proof.Machine

/-- Where a host offset leads (R149). -/
inductive PortTarget where
  /-- an implemented CSR -/
  | csr (c : Csr)
  /-- IMEM word k, k < IMEM_WORDS -/
  | imem (k : Nat)
  /-- the four DMEM bytes from address a, a < DMEM_BYTES -/
  | dmem (a : Nat)
  /-- an unimplemented CSR number, a place above the end of a memory, or no window -/
  | nothing
deriving DecidableEq, Repr

/-- The window map (R149); bits 1:0 of the offset are ignored. -/
def State.portTarget (s : State) (off : Nat) : PortTarget :=
  let o := off / 4 * 4
  if o < 0x400 then
    match csrOf (BitVec.ofNat 8 (o / 4)) with
    | some c => .csr c
    | none => .nothing
  else if 0x10000 ≤ o ∧ o < 0x20000 then
    if (o - 0x10000) / 4 < s.params.imemWords then .imem ((o - 0x10000) / 4) else .nothing
  else if 0x100000 ≤ o ∧ o < 0x200000 then
    if o - 0x100000 < s.params.dmemBytes then .dmem (o - 0x100000) else .nothing
  else .nothing

/-- What a host read of an offset gets back (R149, R151): while RUN = 1 a memory word is a free value (log 10). -/
def State.portWord (s : State) (off : Nat) : Word :=
  match s.portTarget off with
  | .csr c => s.csrRead c
  | .imem k => if s.run then Config.busyWord s.freshSeed off else s.imemWord k
  | .dmem a => if s.run then Config.busyWord s.freshSeed off else s.wordAt a
  | .nothing => 0

/-- A host read (R149, R150): no side effect on TRX; the model keeps the word and advances its counter of free values. -/
def State.hostRead (s : State) (off : Nat) : State :=
  { s with
    portData := s.portWord off
    freshSeed := s.freshSeed + 1 }

/-- A host write of CTRL, at any time (R29, R151, R152): SRST wins over START; otherwise IE takes its bit and START starts
a run if the sequencer is idle. -/
def State.hostWriteCtrl (s : State) (v : Word) : State :=
  if v.getLsbD 2 then s.softReset
  else
    let t := { s with ie := v.getLsbD 1 }
    if v.getLsbD 0 && !s.run then t.start else t

/-- A host write of STATUS: writing 1 clears DONE, and FAULT together with CAUSE (R26, R30). -/
def State.hostWriteStatus (s : State) (v : Word) : State :=
  { s with
    done := s.done && !v.getLsbD 1
    fault := s.fault && !v.getLsbD 2
    cause := if v.getLsbD 2 then 0 else s.cause }

/-- A host write of a CSR while idle (R26, R27, R31): ENTRY keeps its low bits zero, RO fields ignore the write. -/
def State.hostWriteCsr (s : State) (c : Csr) (v : Word) : State :=
  match c with
  | .ctrl => s.hostWriteCtrl v
  | .status => s.hostWriteStatus v
  | .entry => { s with entry := v.extractLsb' 2 30 ++ 0#2 }
  | .pc => s
  | .id => s
  | .cfg => s
  | .faultPc => s
  | .faultInfo => s
  | .nts => s.csrWrite .nts v
  | .dsz => s.csrWrite .dsz v
  | .src => s.csrWrite .src v
  | .slen => s.csrWrite .slen v
  | .dtab => s.csrWrite .dtab v
  | .dcnt => s.csrWrite .dcnt v
  | .dtab2 => s.csrWrite .dtab2 v

/-- A host write (R149 to R151): while RUN = 1 only CTRL takes it. -/
def State.hostWrite (s : State) (off : Nat) (v : Word) : State :=
  match s.portTarget off with
  | .csr .ctrl => s.hostWriteCtrl v
  | .csr c => if s.run then s else s.hostWriteCsr c v
  | .imem k => if s.run then s else { s with imem := Memory.write s.imem k [v] }
  | .dmem a => if s.run then s else s.storeBytes a (wordBytes v)
  | .nothing => s

/-- One transaction of the host (R149, R153). -/
def State.hostTurn (s : State) : HostAction → State
  | .read off => s.hostRead off
  | .write off v => s.hostWrite off v
  | .powerOn => s.powerOnReset

end Sys2Proof.Machine
end

