-- ==== Sys2Proof/Machine/Step.lean ====
section
/-!
DEFINITION. One step of TRX (10_state.md R16; 20_memory.md R56, R60; 60_exceptions.md R137 to R141), and a state with a
given word at the place the step fetches from.
-/

namespace Sys2Proof.Machine

/-- The sequencer's turn: idle, nothing happens (R45, R158); running, one instruction is fetched and executed, or the fault
of its fetch is taken (R137, R138). -/
def sequencerStep (s : State) : Result :=
  if s.run then
    match s.fetch with
    | .ok i => exec i s
    | .error t => .next (s.raise t)
  else .next s

/-- One step: the next pending turn if there is one, else the sequencer's (log 4, 5). -/
def step (s : State) : Host.Outcome State Fault Refusal :=
  match s.turns with
  | [] => sequencerStep s
  | .sequencer :: rest => sequencerStep { s with turns := rest }
  | .host a :: rest => .next (State.hostTurn { s with turns := rest } a)

/-- `s` with the instruction word of bits `w` where the next step fetches (log 6): an idle sequencer is started, no turn of
the host comes first, a pc outside IMEM goes to word 0, and the word stands in IMEM at the pc. Bits at and above `nbits`
are zero. -/
def State.withFetchWord (s : State) (nbits w : Nat) : State :=
  let t := if s.run then s else s.start
  let p := if t.pc.toNat + 4 ≤ 4 * t.params.imemWords then t.pc else 0
  { t with
    pc := p
    turns := []
    imem := Memory.write t.imem (p.toNat / 4) [BitVec.ofNat 32 (w % 2 ^ nbits)] }

end Sys2Proof.Machine
end

