-- ==== Sys2Proof/Safety.lean ====
section
/-!
DEFINITION. What counts as a sound state and a safe run of TRX, in the terms the statements use: the invariant, what an
instruction leaves unchanged (frames), a fault taken, the preconditions of DMX, and several instructions in a row.
-/

namespace Sys2Proof.Machine

/-! ### The invariant -/

/-- What every reachable state satisfies: legal parameters (00_scope.md R6), the unused slot of A0 at zero (R17), an
aligned pc and ENTRY (R22, R31), at most one of RUN, DONE and FAULT, CAUSE zero exactly while FAULT is 0 and then a reported
code (R30; 60_exceptions.md R136), and both memories in their canonical form and range (20_memory.md R47, R48). -/
abbrev StateInv (s : State) : Prop :=
  s.params.legal ∧ s.a[0] = 0 ∧ s.pc.toNat % 4 = 0 ∧ s.entry.toNat % 4 = 0 ∧
  ¬ (s.run = true ∧ s.done = true) ∧ ¬ (s.run = true ∧ s.fault = true) ∧ ¬ (s.done = true ∧ s.fault = true) ∧
  (s.fault = false → s.cause = 0) ∧ (s.fault = true → 1 ≤ s.cause.toNat ∧ s.cause.toNat ≤ 10) ∧
  Memory.wf s.imem = true ∧ Memory.below s.params.imemWords s.imem = true ∧
  Memory.wf s.dmem = true ∧ Memory.below s.params.dmemBytes s.dmem = true

/-! ### Frames: what is the same in `s` and `t` -/

/-- Every scalar register but `r` is the same. -/
def SameAExcept (r : AReg) (s t : State) : Prop := ∀ q, q ≠ r → t.readA q = s.readA q

/-- Every scalar register is the same. -/
def SameA (s t : State) : Prop := ∀ q, t.readA q = s.readA q

/-- Every tile register is the same. -/
def SameV (s t : State) : Prop := ∀ q, t.readV q = s.readV q

/-- Every tile register outside the list is the same. -/
def SameVExcept (rs : List VReg) (s t : State) : Prop := ∀ q, q ∉ rs → t.readV q = s.readV q

/-- STATUS and CTRL are the same: RUN, DONE, FAULT, CAUSE and IE. -/
def SameRunState (s t : State) : Prop :=
  t.run = s.run ∧ t.done = s.done ∧ t.fault = s.fault ∧ t.cause = s.cause ∧ t.ie = s.ie

/-- ENTRY, FAULT_PC, FAULT_INFO and the parameters are the same. -/
def SameControl (s t : State) : Prop :=
  t.entry = s.entry ∧ t.faultPc = s.faultPc ∧ t.faultInfo = s.faultInfo ∧ t.params = s.params

/-- The seven configuration CSRs are the same. -/
def SameConfig (s t : State) : Prop :=
  t.nts = s.nts ∧ t.dsz = s.dsz ∧ t.src = s.src ∧ t.slen = s.slen ∧ t.dtab = s.dtab ∧ t.dcnt = s.dcnt ∧
  t.dtab2 = s.dtab2

/-- Every CSR but PC is the same. -/
def SameCsrs (s t : State) : Prop := SameRunState s t ∧ SameControl s t ∧ SameConfig s t

/-- Every byte of DMEM reads the same. -/
def SameDmem (s t : State) : Prop := ∀ x, t.byteAt x = s.byteAt x

/-- Every byte of DMEM outside the `n` bytes from `a` reads the same. -/
def SameDmemOutside (a n : Nat) (s t : State) : Prop := ∀ x, ¬ (a ≤ x ∧ x < a + n) → t.byteAt x = s.byteAt x

/-- Every word of IMEM reads the same. -/
def SameImem (s t : State) : Prop := ∀ k, t.imemWord k = s.imemWord k

/-- The model's own fields are the same, the counter of free values apart. -/
def SameModel (s t : State) : Prop := t.turns = s.turns ∧ t.portData = s.portData ∧ t.fillSeed = s.fillSeed

/-- Nothing but the pc differs. -/
def OnlyPc (s t : State) : Prop :=
  SameA s t ∧ SameV s t ∧ SameCsrs s t ∧ SameDmem s t ∧ SameImem s t ∧ SameModel s t ∧ t.freshSeed = s.freshSeed

/-- Nothing but the pc and scalar register `r` differs, and `A[r]` is `x`; for A0 the value is discarded and A0 still reads
0 (R17). -/
def WroteA (r : AReg) (x : Word) (s t : State) : Prop :=
  (r ≠ 0 → t.readA r = x) ∧ t.readA 0 = 0 ∧ SameAExcept r s t ∧
  SameV s t ∧ SameCsrs s t ∧ SameDmem s t ∧ SameImem s t ∧ SameModel s t ∧ t.freshSeed = s.freshSeed

/-- Nothing but the pc and the tile registers of the list differs. -/
def OnlyV (rs : List VReg) (s t : State) : Prop :=
  SameA s t ∧ SameVExcept rs s t ∧ SameCsrs s t ∧ SameDmem s t ∧ SameImem s t ∧ SameModel s t ∧
  t.freshSeed = s.freshSeed

/-- Nothing but the pc and the `n` bytes of DMEM from `a` differs. -/
def OnlyDmem (a n : Nat) (s t : State) : Prop :=
  SameA s t ∧ SameV s t ∧ SameCsrs s t ∧ SameDmemOutside a n s t ∧ SameImem s t ∧ SameModel s t ∧
  t.freshSeed = s.freshSeed

/-- The fault was taken (R141): the run ended, STATUS, FAULT_PC and FAULT_INFO record it, the pc stays at the faulting
instruction, and everything else is the same. -/
def FaultTaken (trap : Trap) (s t : State) : Prop :=
  t.run = false ∧ t.fault = true ∧ t.cause = trap.cause.code ∧ t.faultPc = s.pc ∧ t.faultInfo = trap.info ∧
  t.pc = s.pc ∧ t.done = s.done ∧ t.ie = s.ie ∧ t.entry = s.entry ∧ t.params = s.params ∧ SameConfig s t ∧
  SameA s t ∧ SameV s t ∧ SameDmem s t ∧ SameImem s t ∧ SameModel s t ∧ t.freshSeed = s.freshSeed

/-- Every register and CSR has its reset value (R45), IRQ among them. -/
def AtResetValues (t : State) : Prop :=
  (∀ q, t.readA q = 0) ∧ (∀ q k, (t.readV q).byte k = 0) ∧ t.pc = 0 ∧ t.csrRead .pc = 0 ∧
  t.ie = false ∧ t.csrRead .ctrl = 0 ∧
  t.run = false ∧ t.done = false ∧ t.fault = false ∧ t.cause = 0 ∧ t.csrRead .status = 0 ∧
  t.entry = 0 ∧ t.faultPc = 0 ∧ t.faultInfo = 0 ∧
  t.nts = 32 ∧ t.dsz = 64 ∧ t.src = 0 ∧ t.slen = 2048 ∧ t.dtab = 0 ∧ t.dcnt = 32 ∧ t.dtab2 = 0 ∧
  t.csrRead .id = 0x54525831 ∧ t.irq = false

/-! ### Accesses -/

/-- An access of `n` bytes at `ea` is aligned and in range (R48, R52). -/
def AccessOk (s : State) (ea : Word) (n : Nat) : Prop := ea.toNat % n = 0 ∧ ea.toNat + n ≤ s.params.dmemBytes

/-! ### DMX -/

/-- The base of channel c's destination buffer (R85). -/
def destAddr (s : State) (c : Nat) : Nat := (s.tableEntry s.dtab.toNat c).addr.toNat

/-- The length of channel c's destination buffer (R85). -/
def destLen (s : State) (c : Nat) : Nat := (s.tableEntry s.dtab.toNat c).len.toNat

/-- T4, T8 and T16 are the tile modes (R86). -/
def IsTileMode (mode : DmxMode) : Prop := mode = .t4 ∨ mode = .t8 ∨ mode = .t16

/-- ROWS (R87). -/
def expectedRows (s : State) (mode : DmxMode) : Nat :=
  if mode = .ref then s.slen.toNat / s.nts.toNat else s.dsz.toNat

/-- The mode's shape precondition, on unbounded integers (R86; R88 check 2). -/
def ShapeFits (mode : DmxMode) (s : State) : Prop :=
  (mode = .ref → s.slen.toNat % s.nts.toNat = 0) ∧ (mode ≠ .ref → s.slen.toNat = s.nts.toNat * s.dsz.toNat)

/-- The channel count is a multiple of the mode's tile row count (R86; R88 check 3). -/
def RowCountFits (mode : DmxMode) (s : State) : Prop :=
  (mode = .t4 → s.nts.toNat % 4 = 0) ∧ (mode = .t8 → s.nts.toNat % 8 = 0) ∧ (mode = .t16 → s.nts.toNat % 16 = 0)

/-- In a tile mode the number is a multiple of the tile width (R86; R88 checks 4 and 10). -/
def TileFits (w : Width) (mode : DmxMode) (n : Nat) : Prop := IsTileMode mode → n % w.bytes = 0

/-- The checks of R88 that need only the CSRs, 1 to 7, all pass. -/
def DmxShapeOk (w : Width) (mode : DmxMode) (s : State) : Prop :=
  s.nts.toNat ≠ 0 ∧ ShapeFits mode s ∧ RowCountFits mode s ∧ TileFits w mode s.dsz.toNat ∧
  s.dcnt = s.nts ∧ s.dtab.toNat % 4 = 0 ∧ s.dtab.toNat + 8 * s.nts.toNat ≤ s.params.dmemBytes

/-- Every length in the table is ROWS (R88 check 9). -/
def LengthsFit (mode : DmxMode) (s : State) : Prop := ∀ c, c < s.nts.toNat → destLen s c = expectedRows s mode

/-- In a tile mode SRC and every buffer base are multiples of the tile width (R88 check 10). -/
def BasesFit (w : Width) (mode : DmxMode) (s : State) : Prop :=
  TileFits w mode s.src.toNat ∧ ∀ c, c < s.nts.toNat → TileFits w mode (destAddr s c)

/-- The source buffer is in range (R88 check 11). -/
def SourceInRange (s : State) : Prop := 0 < s.slen.toNat → s.src.toNat + s.slen.toNat ≤ s.params.dmemBytes

/-- Channel c's buffer is in range (R88 check 12). -/
def DestInRange (mode : DmxMode) (s : State) (c : Nat) : Prop :=
  0 < expectedRows s mode → destAddr s c + expectedRows s mode ≤ s.params.dmemBytes

/-- Every check of R88 passes. -/
def DmxReady (w : Width) (mode : DmxMode) (s : State) : Prop :=
  DmxShapeOk w mode s ∧ LengthsFit mode s ∧ BasesFit w mode s ∧ SourceInRange s ∧
  ∀ c, c < s.nts.toNat → DestInRange mode s c

/-- Address x is a byte of channel c's destination buffer of `rows` bytes. -/
def InDest (s : State) (rows c x : Nat) : Prop := destAddr s c ≤ x ∧ x < destAddr s c + rows

/-- Address x of channel c's buffer lies in no overlap: not in the source, not in the table, in no other buffer (R89). -/
def Clear (s : State) (rows c x : Nat) : Prop :=
  ¬ (s.src.toNat ≤ x ∧ x < s.src.toNat + s.slen.toNat) ∧
  ¬ (s.dtab.toNat ≤ x ∧ x < s.dtab.toNat + 8 * s.nts.toNat) ∧
  ∀ d, d < s.nts.toNat → d ≠ c → ¬ InDest s rows d x

/-- The destination buffers overlap neither each other nor the source nor the table (R89, R167). -/
def DmxDisjoint (s : State) (rows : Nat) : Prop := ∀ c x, c < s.nts.toNat → InDest s rows c x → Clear s rows c x

/-! ### DCMP -/

/-- The length, and the two buffer bases, of channel c in DCMP's two sets (R117). -/
def cmpLen1 (s : State) (c : Nat) : Nat := (s.tableEntry s.dtab.toNat c).len.toNat
def cmpLen2 (s : State) (c : Nat) : Nat := (s.tableEntry s.dtab2.toNat c).len.toNat
def cmpAddr1 (s : State) (c : Nat) : Nat := (s.tableEntry s.dtab.toNat c).addr.toNat
def cmpAddr2 (s : State) (c : Nat) : Nat := (s.tableEntry s.dtab2.toNat c).addr.toNat

/-- DCMP's tables are aligned and in range (R117). -/
def DcmpTablesOk (s : State) : Prop :=
  s.dtab.toNat % 4 = 0 ∧ s.dtab2.toNat % 4 = 0 ∧
  s.dtab.toNat + 8 * s.dcnt.toNat ≤ s.params.dmemBytes ∧ s.dtab2.toNat + 8 * s.dcnt.toNat ≤ s.params.dmemBytes

/-- The buffers of channel c, taken as long as the first set says, are in range (R117). -/
def CmpInRange (s : State) (c : Nat) : Prop :=
  0 < cmpLen1 s c →
    cmpAddr1 s c + cmpLen1 s c ≤ s.params.dmemBytes ∧ cmpAddr2 s c + cmpLen1 s c ≤ s.params.dmemBytes

/-- The two buffers of channel c have equal lengths, are in range and hold equal bytes (R117). -/
def CmpEqual (s : State) (c : Nat) : Prop :=
  cmpLen1 s c = cmpLen2 s c ∧ CmpInRange s c ∧
  ∀ k, k < cmpLen1 s c → s.byteAt (cmpAddr1 s c + k) = s.byteAt (cmpAddr2 s c + k)

/-- Channel c differs: in length, or in range with some byte different (R117). -/
def CmpDiffers (s : State) (c : Nat) : Prop :=
  cmpLen1 s c ≠ cmpLen2 s c ∨
  (CmpInRange s c ∧ ∃ k, k < cmpLen1 s c ∧ s.byteAt (cmpAddr1 s c + k) ≠ s.byteAt (cmpAddr2 s c + k))

/-! ### Tile transposes -/

/-- Half h of a tile is computed by the form of width w (R20). -/
def HasHalf (w : Width) (h : Nat) : Prop := h = 0 ∨ (h = 1 ∧ w = .y)

/-- With W = 0 the bytes of half 1 are zero (R20). -/
def HighZero (w : Width) (t : Tile) : Prop := w = .x → ∀ k, 16 ≤ k → t.byte k = 0

/-- The i-th of four registers, i = 0..3. -/
def pick (v0 v1 v2 v3 : VReg) (i : Nat) : VReg := [v0, v1, v2, v3].getD i v3

/-! ### What an instruction may write -/

/-- The scalar register an instruction writes (R18). -/
def scalarDest : Instr → List AReg
  | .li ra _ | .lih ra _ | .addi ra _ _ | .add ra _ _ | .ldw ra _ _ | .csrr ra _ | .dcmp ra | .dbnz ra _ => [ra]
  | .nop | .halt | .j _ | .bne _ _ _ | .stw _ _ _ | .csrw _ _ | .vld _ _ _ _ | .vst _ _ _ _ | .vldl _ _ _ _ _
  | .vstl _ _ _ _ _ | .tr4b _ _ _ | .shufd _ _ _ _ _ | .tr4d _ _ _ _ _ | .tr8b _ _ _ _ _ | .tr16b _ | .vmov _ _ _
  | .vinsh _ _ | .vexth _ _ | .dmx _ _ => []

/-- The tile registers an instruction writes (R21). -/
def tileDest : Instr → List VReg
  | .vld _ v0 _ _ | .vldl _ v0 _ _ _ | .tr4b _ v0 _ | .shufd _ v0 _ _ _ | .vmov _ v0 _ | .vinsh v0 _ | .vexth v0 _ => [v0]
  | .tr4d _ v0 v1 v2 v3 | .tr8b _ v0 v1 v2 v3 => [v0, v1, v2, v3]
  | .tr16b _ => List.finRange 16
  | .nop | .halt | .j _ | .dbnz _ _ | .bne _ _ _ | .li _ _ | .lih _ _ | .addi _ _ _ | .add _ _ _ | .ldw _ _ _
  | .stw _ _ _ | .csrr _ _ | .csrw _ _ | .vst _ _ _ _ | .vstl _ _ _ _ _ | .dmx _ _ | .dcmp _ => []

/-- The instructions that write DMEM (20_memory.md R55). -/
def WritesDmem : Instr → Bool
  | .stw _ _ _ | .vst _ _ _ _ | .vstl _ _ _ _ _ | .dmx _ _ => true
  | .nop | .halt | .j _ | .dbnz _ _ | .bne _ _ _ | .li _ _ | .lih _ _ | .addi _ _ _ | .add _ _ _ | .ldw _ _ _
  | .csrr _ _ | .csrw _ _ | .vld _ _ _ _ | .vldl _ _ _ _ _ | .tr4b _ _ _ | .shufd _ _ _ _ _ | .tr4d _ _ _ _ _
  | .tr8b _ _ _ _ _ | .tr16b _ | .vmov _ _ _ | .vinsh _ _ | .vexth _ _ | .dcmp _ => false

/-! ### Outcomes of an instruction -/

/-- The instruction raises the fault in state `s`: it answers the state in which the fault is taken. -/
def Raises (i : Instr) (trap : Trap) (s : State) : Prop := ∃ t, exec i s = .next t ∧ FaultTaken trap s t

/-- `p` is the branch target `pc + 4 * imm16` modulo 2^32, imm16 signed (R76, R119). -/
def IsTarget (s : State) (imm16 : BitVec 16) (p : Word) : Prop :=
  (p.toNat : Int) = ((s.pc.toNat : Int) + 4 * imm16.toInt) % 2 ^ 32

/-! ### Several instructions -/

/-- The instructions of the list one after another, while each answers a next state. -/
def execAll : List Instr → State → Result
  | [], s => .next s
  | i :: is, s =>
    match exec i s with
    | .next t => execAll is t
    | .fault f => .fault f
    | .refused r => .refused r

end Sys2Proof.Machine
end

