-- ==== Sys2Proof/Certificates/Slice0/Obligations.lean ====
section
/-!
DEFINITION. The statements about TRX, made from the numbered rules of spec/. `FaultTaken`, the frames and the preconditions
of DMX and DCMP are in Safety.lean.
-/

open Sys2Proof Sys2Proof.Machine

/-! ### Encoding -/

/-- Decode and encode agree: every well-formed instruction, with every operand the encoding admits, is read back from its
word (R69 to R79). -/
def Obligations.DecodeOfEncodeIsTheInstruction : Prop :=
  ∀ i, WellFormed i = true → decode (encode i) = .ok i

/-- Decoding is strict: a word the decoder accepts is the one word of a well-formed instruction, so no accepted word has a
reserved bit set (R79, R80). -/
def Obligations.AcceptedWordIsTheEncodingOfItsInstruction : Prop :=
  ∀ w i, decode w = .ok i → WellFormed i = true ∧ encode i = w

/-- Operands that R79 items 3, 4, 6 and 7 forbid are rejected at decode; the meaning of such a term, which no step runs,
raises ILLEGAL_INSTRUCTION with the word all the same (the model's choice, log 13). -/
def Obligations.IllFormedOperandsAreRejected : Prop :=
  ∀ i, WellFormed i = false →
    (∃ e, decode (encode i) = .error e) ∧ ∀ s, Raises i ⟨.illegalInstruction, encode i⟩ s

/-- Words written out from the spec's encodings decode to the instructions they stand for (R93, R99, R112 to R132). -/
def Obligations.SampleWordsDecode : Prop :=
  decode 0x04000000 = .ok .nop ∧ decode 0x08000000 = .ok .halt ∧ decode 0x1000FFFF = .ok (.j 0xFFFF) ∧
  decode 0x1480FFFD = .ok (.dbnz 1 0xFFFD) ∧ decode 0x2D940000 = .ok (.add 3 1 2) ∧
  decode 0x3620000C = .ok (.stw 4 2 12) ∧ decode 0x3C800008 = .ok (.csrw 1 .nts) ∧
  decode 0x4A488FF8 = .ok (.vldl .q 2 2 1 0xFF8) ∧ decode 0x64802044 = .ok (.shufd .x 4 0 1 0x44) ∧
  decode 0x6A091800 = .ok (.tr4d .y 0 4 8 12) ∧ decode 0x82C00000 = .ok (.dmx .y .t8) ∧
  decode 0x84800000 = .ok (.dcmp 1)

/-- Every reserved opcode is rejected: 0x00, 0x03, 0x07, 0x14 to 0x17, 0x22 to 0x3F (R78, R80). -/
def Obligations.ReservedOpcodesAreRejected : Prop :=
  ∀ w : Word,
    w.toNat / 2 ^ 26 = 0x00 ∨ w.toNat / 2 ^ 26 = 0x03 ∨ w.toNat / 2 ^ 26 = 0x07 ∨
    (0x14 ≤ w.toNat / 2 ^ 26 ∧ w.toNat / 2 ^ 26 ≤ 0x17) ∨ 0x22 ≤ w.toNat / 2 ^ 26 →
    decode w = .error .reservedOpcode

/-! ### The step -/

/-- Where the pc is in IMEM and the word there decodes to an instruction, one step is that instruction's meaning (R67,
R137). The list of pending turns is the model's choice (log 4): a step uses up a turn of the sequencer that comes first,
and is the host's transaction where one comes first, running or idle. -/
def Obligations.StepRunsTheDecodedInstruction : Prop :=
  (∀ (s : State) (i : Instr), s.run = true → s.pc.toNat + 4 ≤ 4 * s.params.imemWords →
    decode (s.imemWord (s.pc.toNat / 4)) = .ok i →
    (s.turns = [] → step s = exec i s) ∧
    ∀ rest, s.turns = .sequencer :: rest → step s = exec i { s with turns := rest }) ∧
  ∀ (s : State) (a : HostAction) (rest : List Turn), s.turns = .host a :: rest →
    step s = .next (State.hostTurn { s with turns := rest } a)

/-- Fetch (R137): a pc outside IMEM raises FETCH_RANGE with the pc before any decode; otherwise the word at index pc / 4 is
decoded, and runs or raises ILLEGAL_INSTRUCTION with the word. -/
def Obligations.FetchOutsideImemRaisesFetchRange : Prop :=
  ∀ s : State, s.turns = [] → s.run = true →
    (4 * s.params.imemWords < s.pc.toNat + 4 →
      ∃ t, step s = .next t ∧ FaultTaken ⟨.fetchRange, s.pc⟩ s t) ∧
    (s.pc.toNat + 4 ≤ 4 * s.params.imemWords →
      (∀ i, decode (s.imemWord (s.pc.toNat / 4)) = .ok i → step s = exec i s) ∧
      ∀ e, decode (s.imemWord (s.pc.toNat / 4)) = .error e →
        ∃ t, step s = .next t ∧ FaultTaken ⟨.illegalInstruction, s.imemWord (s.pc.toNat / 4)⟩ s t)

/-- No instruction and no step of the model stops: each answers a next state (R134, R135, R170; log 17). An idle sequencer
with no turn of the host pending executes nothing (R45, R158; log 5). -/
def Obligations.EveryStepAnswersANextState : Prop :=
  (∀ i s, ∃ t, exec i s = .next t) ∧ (∀ s, ∃ t, step s = .next t) ∧
  ∀ s : State, s.turns = [] → s.run = false → step s = .next s

/-- What reset leaves (R45): every register and CSR at its value after power-on and after a soft reset, CFG computed from
the parameters, IMEM kept by a soft reset, and DMEM too when the sequencer was idle. -/
def Obligations.ResetLeavesTheResetValues : Prop :=
  AtResetValues State.reset ∧ State.reset.csrRead .cfg = 0x100A ∧
  ∀ s : State,
    AtResetValues s.powerOnReset ∧ s.powerOnReset.csrRead .cfg = s.csrRead .cfg ∧
    AtResetValues s.softReset ∧ s.softReset.csrRead .cfg = s.csrRead .cfg ∧
    SameImem s s.softReset ∧ (s.run = false → SameDmem s s.softReset)

/-- The invariant holds at reset. -/
def Obligations.InvariantHoldsAtReset : Prop := StateInv State.reset

/-- Every step keeps the invariant: both memories in canonical form and in range, an aligned pc and ENTRY, at most one of
RUN, DONE and FAULT, CAUSE a reported code exactly while FAULT is 1 (R22, R30, R31, R136). -/
def Obligations.EveryStepKeepsTheInvariant : Prop := ∀ s t : State, StateInv s → step s = .next t → StateInv t

/-! ### Faults -/

/-- Fault entry (R141): STATUS, FAULT_PC, FAULT_INFO and PC record the fault, and nothing else changes; IRQ is then IE
(R146). The sequencer is idle (R158), and that a step while idle leaves the state as it is, is the model's choice (log 5). -/
def Obligations.FaultEntryRecordsTheFault : Prop :=
  ∀ (s : State) (trap : Trap),
    FaultTaken trap s (s.raise trap) ∧ (s.raise trap).csrRead .pc = s.pc ∧
    (s.raise trap).csrRead .faultPc = s.pc ∧ (s.raise trap).csrRead .faultInfo = trap.info ∧
    (s.raise trap).irq = s.ie ∧ (s.turns = [] → step (s.raise trap) = .next (s.raise trap))

/-- The cause codes of STATUS.CAUSE (R136). -/
def Obligations.CauseCodesAreThoseOfTheTable : Prop :=
  Cause.code .illegalInstruction = 1 ∧ Cause.code .fetchRange = 2 ∧ Cause.code .misaligned = 3 ∧
  Cause.code .memRange = 4 ∧ Cause.code .preShape = 5 ∧ Cause.code .preMultiple = 6 ∧ Cause.code .preTile = 7 ∧
  Cause.code .preCount = 8 ∧ Cause.code .preDlen = 9 ∧ Cause.code .preAlign = 10

/-- Faults are precise (R135): an instruction that ends in a fault has changed nothing but what fault entry records. -/
def Obligations.FaultsArePrecise : Prop :=
  ∀ i s t, exec i s = .next t → s.fault = false → t.fault = true → ∃ trap, FaultTaken trap s t

/-- The sequencer ends a run only by HALT, with DONE set, or by a fault, that of the instruction or of its fetch (R148,
R137); so for an instruction, and for a step that is the sequencer's turn (the list of turns is the model's choice,
log 4). -/
def Obligations.RunEndsOnlyByHaltOrFault : Prop :=
  (∀ i s t, exec i s = .next t → s.run = true → t.run = false →
    (i = .halt ∧ t.done = true) ∨ (t.fault = true ∧ ∃ trap, FaultTaken trap s t)) ∧
  ∀ s t : State, (s.turns = [] ∨ ∃ rest, s.turns = .sequencer :: rest) →
    step s = .next t → s.run = true → t.run = false →
    (s.fetch = .ok .halt ∧ t.done = true) ∨
    (t.fault = true ∧ ∃ trap, FaultTaken trap { s with turns := s.turns.tail } t)

/-! ### What instructions may write -/

/-- No instruction writes IMEM, IE, ENTRY or the parameters, and only CSRW writes a configuration CSR (R27, R46, R47,
R64). -/
def Obligations.InstructionsLeaveTheHostsStateAlone : Prop :=
  ∀ i s t, exec i s = .next t →
    SameImem s t ∧ t.ie = s.ie ∧ t.entry = s.entry ∧ t.params = s.params ∧ SameModel s t ∧
    ((∀ ra c, i ≠ .csrw ra c) → SameConfig s t)

/-- An instruction writes only the scalar register, the tile registers and the memory that R18, R21, R55 and R91 give it: DMX
no register at all, DCMP one scalar register, loads and transposes no memory, a store only the bytes of its access and DMX
only those of its destination buffers (`State.writtenBlocks`), and none where it faults. -/
def Obligations.InstructionsWriteOnlyTheirDestinations : Prop :=
  ∀ i s t, exec i s = .next t →
    (∀ q, q ∉ scalarDest i → t.readA q = s.readA q) ∧ SameVExcept (tileDest i) s t ∧
    (WritesDmem i = false → SameDmem s t) ∧
    ∀ x, (∀ b ∈ s.writtenBlocks i, ¬ (b.1 ≤ x ∧ x < b.1 + b.2)) → t.byteAt x = s.byteAt x

/-- A0 reads 0 and discards writes; the other scalar registers hold what is written, with no aliases (R17). -/
def Obligations.A0ReadsZeroAndDiscardsWrites : Prop :=
  ∀ (s : State) (r q : AReg) (x : Word),
    s.readA 0 = 0 ∧ s.writeA 0 x = s ∧ (s.writeA r x).readA q = if q = r ∧ r ≠ 0 then x else s.readA q

/-! ### Sequencing and scalar arithmetic -/

/-- NOP changes nothing but the pc, which advances by 4 (R120). -/
def Obligations.NopOnlyAdvances : Prop :=
  ∀ s, ∃ t, exec .nop s = .next t ∧ t.pc = s.pc + 4 ∧ OnlyPc s t

/-- HALT ends the run: RUN 0, DONE 1, the pc and CSR PC at the HALT, and nothing else changed (R121); with DONE 1, IRQ is IE
(R146). -/
def Obligations.HaltEndsTheRun : Prop :=
  ∀ s, ∃ t, exec .halt s = .next t ∧ t.run = false ∧ t.done = true ∧ t.pc = s.pc ∧ t.csrRead .pc = s.pc ∧
    t.irq = s.ie ∧ t.fault = s.fault ∧ t.cause = s.cause ∧ t.ie = s.ie ∧ SameControl s t ∧ SameConfig s t ∧
    SameA s t ∧ SameV s t ∧ SameDmem s t ∧ SameImem s t ∧ SameModel s t ∧ t.freshSeed = s.freshSeed

/-- J jumps; BNE jumps exactly where its registers differ; the target is relative to the branch (R119, R122, R124). -/
def Obligations.JumpAndBranchReachTheirTargets : Prop :=
  (∀ imm16 s, ∃ t, exec (.j imm16) s = .next t ∧ IsTarget s imm16 t.pc ∧ OnlyPc s t) ∧
  ∀ ra rb imm16 s, ∃ t, exec (.bne ra rb imm16) s = .next t ∧ OnlyPc s t ∧
    (s.readA ra ≠ s.readA rb → IsTarget s imm16 t.pc) ∧ (s.readA ra = s.readA rb → t.pc = s.pc + 4)

/-- DBNZ writes the decremented counter and jumps exactly where it is not zero; on A0 it always jumps (R123). -/
def Obligations.DbnzDecrementsAndBranches : Prop :=
  ∀ ra imm16 s, ∃ t x, exec (.dbnz ra imm16) s = .next t ∧ x = s.readA ra - 1 ∧ WroteA ra x s t ∧
    (x ≠ 0 → IsTarget s imm16 t.pc) ∧ (x = 0 → t.pc = s.pc + 4) ∧ (ra = 0 → IsTarget s imm16 t.pc)

/-- LI loads the zero-extended immediate; LIH puts it in the high half and keeps the low (R125, R126). -/
def Obligations.LiAndLihLoadImmediates : Prop :=
  (∀ ra imm16 s, ∃ t x, exec (.li ra imm16) s = .next t ∧ x.toNat = imm16.toNat ∧ WroteA ra x s t ∧
    t.pc = s.pc + 4) ∧
  ∀ ra imm16 s, ∃ t x, exec (.lih ra imm16) s = .next t ∧
    x.toNat = imm16.toNat * 2 ^ 16 + (s.readA ra).toNat % 2 ^ 16 ∧ WroteA ra x s t ∧ t.pc = s.pc + 4

/-- ADDI and ADD add modulo 2^32, the immediate sign-extended (R127, R128, R133). -/
def Obligations.AddiAndAddAreModular : Prop :=
  (∀ ra rb imm16 s, ∃ t x, exec (.addi ra rb imm16) s = .next t ∧
    (x.toNat : Int) = ((s.readA rb).toNat + imm16.toInt) % 2 ^ 32 ∧ WroteA ra x s t ∧ t.pc = s.pc + 4) ∧
  ∀ ra rb rc s, ∃ t x, exec (.add ra rb rc) s = .next t ∧
    x.toNat = ((s.readA rb).toNat + (s.readA rc).toNat) % 2 ^ 32 ∧ WroteA ra x s t ∧ t.pc = s.pc + 4

/-! ### Scalar memory and CSRs -/

/-- Effective addresses are base plus sign-extended offset modulo 2^32, not scaled; access sizes are 16 or 32 bytes by W and
4 or 8 by S (R76, R111). -/
def Obligations.EffectiveAddressesWrap : Prop :=
  (∀ (s : State) rb imm16, ((s.ea16 rb imm16).toNat : Int) = ((s.readA rb).toNat + imm16.toInt) % 2 ^ 32) ∧
  (∀ (s : State) ra imm12, ((s.ea12 ra imm12).toNat : Int) = ((s.readA ra).toNat + imm12.toInt) % 2 ^ 32) ∧
  Width.bytes .x = 16 ∧ Width.bytes .y = 32 ∧ ElemSize.bytes .d = 4 ∧ ElemSize.bytes .q = 8

/-- LDW loads the four bytes at the effective address, the first least significant (R129, R50). -/
def Obligations.LdwLoadsTheWord : Prop :=
  ∀ ra rb imm16 s, AccessOk s (s.ea16 rb imm16) 4 → ∃ t x, exec (.ldw ra rb imm16) s = .next t ∧
    x.toNat = (s.byteAt (s.ea16 rb imm16).toNat).toNat + 2 ^ 8 * (s.byteAt ((s.ea16 rb imm16).toNat + 1)).toNat +
      2 ^ 16 * (s.byteAt ((s.ea16 rb imm16).toNat + 2)).toNat +
      2 ^ 24 * (s.byteAt ((s.ea16 rb imm16).toNat + 3)).toNat ∧
    WroteA ra x s t ∧ t.pc = s.pc + 4

/-- STW stores the register's four bytes at the effective address, the least significant first, and no other byte
(R130, R50). -/
def Obligations.StwStoresTheWord : Prop :=
  ∀ ra rb imm16 s, AccessOk s (s.ea16 rb imm16) 4 → ∃ t, exec (.stw ra rb imm16) s = .next t ∧
    (∀ k, k < 4 → (t.byteAt ((s.ea16 rb imm16).toNat + k)).toNat = (s.readA ra).toNat / 2 ^ (8 * k) % 2 ^ 8) ∧
    t.pc = s.pc + 4 ∧ OnlyDmem (s.ea16 rb imm16).toNat 4 s t

/-- A load or store that is not naturally aligned raises MISALIGNED, in range or not; an aligned one out of range raises
MEM_RANGE; both with the address, and nothing is read or written (R52 to R54, R111). -/
def Obligations.BadAccessesRaiseTheirFaults : Prop :=
  ∀ (s : State) (i : Instr) (ea : Word) (n : Nat), WellFormed i = true →
    ((∃ ra rb imm16, (i = .ldw ra rb imm16 ∨ i = .stw ra rb imm16) ∧ ea = s.ea16 rb imm16 ∧ n = 4) ∨
     (∃ w v0 ra imm12, (i = .vld w v0 ra imm12 ∨ i = .vst w v0 ra imm12) ∧ ea = s.ea12 ra imm12 ∧ n = w.bytes) ∨
     (∃ sz v0 ra lane imm12, (i = .vldl sz v0 ra lane imm12 ∨ i = .vstl sz v0 ra lane imm12) ∧
        ea = s.ea12 ra imm12 ∧ n = sz.bytes)) →
    (ea.toNat % n ≠ 0 → Raises i ⟨.misaligned, ea⟩ s) ∧
    (ea.toNat % n = 0 → s.params.dmemBytes < ea.toNat + n → Raises i ⟨.memRange, ea⟩ s)

/-- CSRR reads any implemented CSR; PC reads the CSRR's own address, and STATUS reads 1 in a running program (R131, R30,
R32). -/
def Obligations.CsrrReadsTheCsr : Prop :=
  ∀ ra csr s, ∃ t, exec (.csrr ra csr) s = .next t ∧ WroteA ra (s.csrRead csr) s t ∧ t.pc = s.pc + 4 ∧
    (csr = .pc → ra ≠ 0 → t.readA ra = s.pc) ∧
    (csr = .status → ra ≠ 0 → StateInv s → s.run = true → t.readA ra = 1)

/-- How each CSR reads (R28 to R43). -/
def Obligations.CsrsReadTheirFields : Prop :=
  ∀ s : State,
    (s.csrRead .ctrl).toNat = 2 * s.ie.toNat ∧
    (s.csrRead .status).toNat = s.run.toNat + 2 * s.done.toNat + 4 * s.fault.toNat + 16 * s.cause.toNat ∧
    s.csrRead .entry = s.entry ∧ s.csrRead .pc = s.pc ∧ s.csrRead .id = 0x54525831 ∧
    (s.params.legal → (s.csrRead .cfg).toNat = s.params.imemLog2 + 2 ^ 8 * s.params.dmemLog2) ∧
    s.csrRead .faultPc = s.faultPc ∧ s.csrRead .faultInfo = s.faultInfo ∧ s.csrRead .nts = s.nts ∧
    s.csrRead .dsz = s.dsz ∧ s.csrRead .src = s.src ∧ s.csrRead .slen = s.slen ∧ s.csrRead .dtab = s.dtab ∧
    s.csrRead .dcnt = s.dcnt ∧ s.csrRead .dtab2 = s.dtab2

/-- CSRW writes one of the seven program-writable CSRs and nothing else; on any other it raises ILLEGAL_INSTRUCTION with
its word (R132, R27). -/
def Obligations.CsrwWritesOnlyWritableCsrs : Prop :=
  ∀ ra csr s,
    (csr ∈ [Csr.nts, .dsz, .src, .slen, .dtab, .dcnt, .dtab2] →
      ∃ t, exec (.csrw ra csr) s = .next t ∧ t.csrRead csr = s.readA ra ∧ t.pc = s.pc + 4 ∧
        (∀ d, d ≠ csr → d ≠ .pc → t.csrRead d = s.csrRead d) ∧ SameRunState s t ∧ SameControl s t ∧
        SameA s t ∧ SameV s t ∧ SameDmem s t ∧ SameImem s t ∧ SameModel s t ∧ t.freshSeed = s.freshSeed) ∧
    (csr ∉ [Csr.nts, .dsz, .src, .slen, .dtab, .dcnt, .dtab2] →
      Raises (.csrw ra csr) ⟨.illegalInstruction, encode (.csrw ra csr)⟩ s)

/-! ### Tile memory -/

/-- VLD loads the tile's bytes in address order; with W = 0 half 1 becomes zero (R112). -/
def Obligations.VldLoadsTheTile : Prop :=
  ∀ w v0 ra imm12 s, AccessOk s (s.ea12 ra imm12) w.bytes → ∃ t, exec (.vld w v0 ra imm12) s = .next t ∧
    (∀ k, k < w.bytes → (t.readV v0).byte k = s.byteAt ((s.ea12 ra imm12).toNat + k)) ∧
    (∀ k, w.bytes ≤ k → (t.readV v0).byte k = 0) ∧ t.pc = s.pc + 4 ∧ OnlyV [v0] s t

/-- VST stores the tile's bytes in address order, 16 or 32 of them, and no other byte (R113). -/
def Obligations.VstStoresTheTile : Prop :=
  ∀ w v0 ra imm12 s, AccessOk s (s.ea12 ra imm12) w.bytes → ∃ t, exec (.vst w v0 ra imm12) s = .next t ∧
    (∀ k, k < w.bytes → t.byteAt ((s.ea12 ra imm12).toNat + k) = (s.readV v0).byte k) ∧
    t.pc = s.pc + 4 ∧ OnlyDmem (s.ea12 ra imm12).toNat w.bytes s t

/-- VLDL loads one element and keeps every other byte of the register, half 1 included (R114). -/
def Obligations.VldlLoadsOneElement : Prop :=
  ∀ sz v0 ra lane imm12 s, ElemSize.laneFits sz lane = true → AccessOk s (s.ea12 ra imm12) sz.bytes →
    ∃ t, exec (.vldl sz v0 ra lane imm12) s = .next t ∧
      (∀ k, k < sz.bytes →
        (t.readV v0).byte (sz.bytes * lane.val + k) = s.byteAt ((s.ea12 ra imm12).toNat + k)) ∧
      (∀ k, ¬ (sz.bytes * lane.val ≤ k ∧ k < sz.bytes * lane.val + sz.bytes) →
        (t.readV v0).byte k = (s.readV v0).byte k) ∧
      t.pc = s.pc + 4 ∧ OnlyV [v0] s t

/-- VSTL stores one element and no other byte (R115). -/
def Obligations.VstlStoresOneElement : Prop :=
  ∀ sz v0 ra lane imm12 s, ElemSize.laneFits sz lane = true → AccessOk s (s.ea12 ra imm12) sz.bytes →
    ∃ t, exec (.vstl sz v0 ra lane imm12) s = .next t ∧
      (∀ k, k < sz.bytes →
        t.byteAt ((s.ea12 ra imm12).toNat + k) = (s.readV v0).byte (sz.bytes * lane.val + k)) ∧
      t.pc = s.pc + 4 ∧ OnlyDmem (s.ea12 ra imm12).toNat sz.bytes s t

/-! ### Transposes -/

/-- TR4B: in each half, byte i of output doubleword j is byte j of input doubleword i (R99). -/
def Obligations.Tr4bTransposesBytes : Prop :=
  ∀ w v0 v1 s, ∃ t, exec (.tr4b w v0 v1) s = .next t ∧
    (∀ h i j, HasHalf w h → i < 4 → j < 4 →
      (t.readV v0).byte (16 * h + 4 * j + i) = (s.readV v1).byte (16 * h + 4 * i + j)) ∧
    HighZero w (t.readV v0) ∧ t.pc = s.pc + 4 ∧ OnlyV [v0] s t

/-- SHUFD: in each half, the two low doublewords come from the first source and the two high from the second, each by its
2-bit selector (R100, R76). -/
def Obligations.ShufdSelectsDoublewords : Prop :=
  ∀ w v0 v1 v2 imm8 s, ∃ t, exec (.shufd w v0 v1 v2 imm8) s = .next t ∧
    (∀ h, HasHalf w h →
      (t.readV v0).dword (4 * h) = (s.readV v1).dword (4 * h + imm8.toNat % 4) ∧
      (t.readV v0).dword (4 * h + 1) = (s.readV v1).dword (4 * h + imm8.toNat / 4 % 4) ∧
      (t.readV v0).dword (4 * h + 2) = (s.readV v2).dword (4 * h + imm8.toNat / 16 % 4) ∧
      (t.readV v0).dword (4 * h + 3) = (s.readV v2).dword (4 * h + imm8.toNat / 64 % 4)) ∧
    HighZero w (t.readV v0) ∧ t.pc = s.pc + 4 ∧ OnlyV [v0] s t

/-- TR4D: in each half, doubleword i of output row j is doubleword j of input row i (R101). -/
def Obligations.Tr4dTransposesDoublewords : Prop :=
  ∀ w v0 v1 v2 v3 s, pairwiseDistinct v0 v1 v2 v3 = true → ∃ t, exec (.tr4d w v0 v1 v2 v3) s = .next t ∧
    (∀ h i j, HasHalf w h → i < 4 → j < 4 →
      (t.readV (pick v0 v1 v2 v3 j)).dword (4 * h + i) = (s.readV (pick v0 v1 v2 v3 i)).dword (4 * h + j)) ∧
    (∀ j, j < 4 → HighZero w (t.readV (pick v0 v1 v2 v3 j))) ∧ t.pc = s.pc + 4 ∧ OnlyV [v0, v1, v2, v3] s t

/-- TR8B: in each half, the 8×8 matrix whose rows 2i and 2i+1 are the quadwords of register i comes out with column k and
column k+4 as the quadwords of register k (R103). -/
def Obligations.Tr8bTransposesBytes : Prop :=
  ∀ w v0 v1 v2 v3 s, pairwiseDistinct v0 v1 v2 v3 = true → ∃ t, exec (.tr8b w v0 v1 v2 v3) s = .next t ∧
    (∀ h row col, HasHalf w h → row < 8 → col < 8 →
      (t.readV (pick v0 v1 v2 v3 (col % 4))).byte (16 * h + 8 * (col / 4) + row) =
        (s.readV (pick v0 v1 v2 v3 (row / 2))).byte (16 * h + 8 * (row % 2) + col)) ∧
    (∀ j, j < 4 → HighZero w (t.readV (pick v0 v1 v2 v3 j))) ∧ t.pc = s.pc + 4 ∧ OnlyV [v0, v1, v2, v3] s t

/-- TR16B: in each half, byte r of V[c] becomes byte c of V[r] (R105). -/
def Obligations.Tr16bTransposesBytes : Prop :=
  ∀ w s, ∃ t, exec (.tr16b w) s = .next t ∧
    (∀ h (r c : VReg), HasHalf w h → (t.readV c).byte (16 * h + r.val) = (s.readV r).byte (16 * h + c.val)) ∧
    (∀ c, HighZero w (t.readV c)) ∧ t.pc = s.pc + 4 ∧ OnlyV (List.finRange 16) s t

/-- VMOV copies, with W = 0 clearing half 1; VINSH puts the source's half 0 into half 1; VEXTH puts the source's half 1 into
half 0 and clears half 1 (R107 to R109). -/
def Obligations.TileMovesMoveHalves : Prop :=
  (∀ w v0 v1 s, ∃ t, exec (.vmov w v0 v1) s = .next t ∧
    (∀ h k, HasHalf w h → k < 16 → (t.readV v0).byte (16 * h + k) = (s.readV v1).byte (16 * h + k)) ∧
    HighZero w (t.readV v0) ∧ t.pc = s.pc + 4 ∧ OnlyV [v0] s t) ∧
  (∀ v0 v1 s, ∃ t, exec (.vinsh v0 v1) s = .next t ∧
    (∀ k, k < 16 → (t.readV v0).byte k = (s.readV v0).byte k ∧ (t.readV v0).byte (16 + k) = (s.readV v1).byte k) ∧
    t.pc = s.pc + 4 ∧ OnlyV [v0] s t) ∧
  ∀ v0 v1 s, ∃ t, exec (.vexth v0 v1) s = .next t ∧
    (∀ k, k < 16 → (t.readV v0).byte k = (s.readV v1).byte (16 + k)) ∧ HighZero .x (t.readV v0) ∧
    t.pc = s.pc + 4 ∧ OnlyV [v0] s t

/-- At full width TR4B in place, TR4D and TR16B each undo themselves (R99, R101, R105). -/
def Obligations.TransposesUndoThemselves : Prop :=
  (∀ v s, ∃ t, execAll [.tr4b .y v v, .tr4b .y v v] s = .next t ∧ SameV s t) ∧
  (∀ v0 v1 v2 v3 s, pairwiseDistinct v0 v1 v2 v3 = true →
    ∃ t, execAll [.tr4d .y v0 v1 v2 v3, .tr4d .y v0 v1 v2 v3] s = .next t ∧ SameV s t) ∧
  ∀ s, ∃ t, execAll [.tr16b .y, .tr16b .y] s = .next t ∧ SameV s t

/-- TR4D is two shuffle passes (R102): the eight SHUFD leave in w0..w3 what TR4D leaves there, for all register contents and
both widths; they also write the scratch registers, which TR4D does not. -/
def Obligations.Tr4dIsTwoShufflePasses : Prop :=
  ∀ (w : Width) (w0 w1 w2 w3 x0 x1 x2 x3 : VReg) (s : State), [w0, w1, w2, w3, x0, x1, x2, x3].Nodup →
    ∃ t u,
      execAll [.shufd w x0 w0 w1 0x44, .shufd w x1 w0 w1 0xEE, .shufd w x2 w2 w3 0x44, .shufd w x3 w2 w3 0xEE,
        .shufd w w0 x0 x2 0x88, .shufd w w1 x0 x2 0xDD, .shufd w w2 x1 x3 0x88, .shufd w w3 x1 x3 0xDD] s = .next t ∧
      exec (.tr4d w w0 w1 w2 w3) s = .next u ∧
      t.readV w0 = u.readV w0 ∧ t.readV w1 = u.readV w1 ∧ t.readV w2 = u.readV w2 ∧ t.readV w3 = u.readV w3 ∧
      u.readV x0 = s.readV x0 ∧ u.readV x1 = s.readV x1 ∧ u.readV x2 = s.readV x2 ∧ u.readV x3 = s.readV x3

/-- TR8B is a split, four byte transposes and one doubleword transpose (R104): the sequence leaves in L0, L1, H0, H1 what
TR8B leaves in r0..r3, for all register contents and both widths. -/
def Obligations.Tr8bIsBuiltFromPrimitives : Prop :=
  ∀ (w : Width) (r0 r1 r2 r3 l0 h0 l1 h1 : VReg) (s : State), [r0, r1, r2, r3, l0, h0, l1, h1].Nodup →
    ∃ t u,
      execAll [.shufd w l0 r0 r1 0x88, .shufd w h0 r0 r1 0xDD, .shufd w l1 r2 r3 0x88, .shufd w h1 r2 r3 0xDD,
        .tr4b w l0 l0, .tr4b w h0 h0, .tr4b w l1 l1, .tr4b w h1 h1, .tr4d w l0 l1 h0 h1] s = .next t ∧
      exec (.tr8b w r0 r1 r2 r3) s = .next u ∧
      t.readV l0 = u.readV r0 ∧ t.readV l1 = u.readV r1 ∧ t.readV h0 = u.readV r2 ∧ t.readV h1 = u.readV r3

/-- TR16B is a two-level block transpose (R106): after the sequence V[4j+k] holds what TR16B leaves in V[4k+j], for all
register contents and both widths. -/
def Obligations.Tr16bIsATwoLevelTranspose : Prop :=
  ∀ (w : Width) (s : State),
    ∃ t u,
      execAll ([.tr4d w 0 1 2 3, .tr4d w 4 5 6 7, .tr4d w 8 9 10 11, .tr4d w 12 13 14 15] ++
        (List.finRange 16).map (fun v => .tr4b w v v) ++
        [.tr4d w 0 4 8 12, .tr4d w 1 5 9 13, .tr4d w 2 6 10 14, .tr4d w 3 7 11 15]) s = .next t ∧
      exec (.tr16b w) s = .next u ∧
      ∀ p q : VReg, p.val % 4 = q.val / 4 → p.val / 4 = q.val % 4 → t.readV p = u.readV q

/-- The 32-byte form of each primitive is the 16-byte form on half 0 together with the 16-byte form on half 1, moved down by
VEXTH and back up by VINSH (R110). TR16B leaves no register to move a half to: for it the second state `d` holds each half 1
moved down. -/
def Obligations.WideFormIsTwoNarrowForms : Prop :=
  (∀ (v0 v1 x : VReg) (s : State), x ≠ v0 → x ≠ v1 →
    (∃ t u, execAll [.vexth x v1, .tr4b .x x x, .tr4b .x v0 v1, .vinsh v0 x] s = .next t ∧
      exec (.tr4b .y v0 v1) s = .next u ∧ t.readV v0 = u.readV v0) ∧
    ∃ t u, execAll [.vexth x v1, .vmov .x x x, .vmov .x v0 v1, .vinsh v0 x] s = .next t ∧
      exec (.vmov .y v0 v1) s = .next u ∧ t.readV v0 = u.readV v0) ∧
  (∀ (v0 v1 v2 x y : VReg) (imm8 : BitVec 8) (s : State),
    x ≠ v0 → x ≠ v1 → x ≠ v2 → y ≠ v0 → y ≠ v1 → y ≠ v2 → x ≠ y → ∃ t u,
    execAll [.vexth x v1, .vexth y v2, .shufd .x x x y imm8, .shufd .x v0 v1 v2 imm8, .vinsh v0 x] s = .next t ∧
    exec (.shufd .y v0 v1 v2 imm8) s = .next u ∧ t.readV v0 = u.readV v0) ∧
  (∀ (v0 v1 v2 v3 x0 x1 x2 x3 : VReg) (s : State), [v0, v1, v2, v3, x0, x1, x2, x3].Nodup →
    (∃ t u, execAll [.vexth x0 v0, .vexth x1 v1, .vexth x2 v2, .vexth x3 v3, .tr4d .x v0 v1 v2 v3,
        .tr4d .x x0 x1 x2 x3, .vinsh v0 x0, .vinsh v1 x1, .vinsh v2 x2, .vinsh v3 x3] s = .next t ∧
      exec (.tr4d .y v0 v1 v2 v3) s = .next u ∧
      t.readV v0 = u.readV v0 ∧ t.readV v1 = u.readV v1 ∧ t.readV v2 = u.readV v2 ∧ t.readV v3 = u.readV v3) ∧
    ∃ t u, execAll [.vexth x0 v0, .vexth x1 v1, .vexth x2 v2, .vexth x3 v3, .tr8b .x v0 v1 v2 v3,
        .tr8b .x x0 x1 x2 x3, .vinsh v0 x0, .vinsh v1 x1, .vinsh v2 x2, .vinsh v3 x3] s = .next t ∧
      exec (.tr8b .y v0 v1 v2 v3) s = .next u ∧
      t.readV v0 = u.readV v0 ∧ t.readV v1 = u.readV v1 ∧ t.readV v2 = u.readV v2 ∧ t.readV v3 = u.readV v3) ∧
  ∀ s d : State, (∀ (r : VReg) k, k < 16 → (d.readV r).byte k = (s.readV r).byte (16 + k)) → ∃ t b u,
    exec (.tr16b .x) s = .next t ∧ exec (.tr16b .x) d = .next b ∧ exec (.tr16b .y) s = .next u ∧
    ∀ (r : VReg) k, k < 16 →
      (u.readV r).byte k = (t.readV r).byte k ∧ (u.readV r).byte (16 + k) = (b.readV r).byte k

/-! ### The demultiplexer -/

/-- DMX (R90, R91): with every check passed and the buffers disjoint, every destination byte is the source byte of its
channel and row as it was when DMX began, no other byte of memory changes, and no register and no CSR. -/
def Obligations.DmxDemultiplexes : Prop :=
  ∀ w mode s, WellFormed (.dmx w mode) = true → DmxReady w mode s → DmxDisjoint s (expectedRows s mode) →
    ∃ t, exec (.dmx w mode) s = .next t ∧
      (∀ c r, c < s.nts.toNat → r < expectedRows s mode →
        t.byteAt (destAddr s c + r) = s.byteAt (s.src.toNat + (r * s.nts.toNat + c))) ∧
      (∀ x, (∀ c, c < s.nts.toNat → ¬ InDest s (expectedRows s mode) c x) → t.byteAt x = s.byteAt x) ∧
      t.pc = s.pc + 4 ∧ SameA s t ∧ SameV s t ∧ SameCsrs s t ∧ SameImem s t ∧ SameModel s t

/-- DMX with overlapping buffers (R89, R91): it still completes; every written byte that lies in no overlap is as R90 says,
and no byte outside the destination buffers changes. Nothing is said of the bytes in an overlap. -/
def Obligations.DmxOverlapLeavesClearBytesRight : Prop :=
  ∀ w mode s, WellFormed (.dmx w mode) = true → DmxReady w mode s →
    ∃ t, exec (.dmx w mode) s = .next t ∧
      (∀ c x, c < s.nts.toNat → InDest s (expectedRows s mode) c x → Clear s (expectedRows s mode) c x →
        t.byteAt x = s.byteAt (s.src.toNat + ((x - destAddr s c) * s.nts.toNat + c))) ∧
      (∀ x, (∀ c, c < s.nts.toNat → ¬ InDest s (expectedRows s mode) c x) → t.byteAt x = s.byteAt x) ∧
      t.pc = s.pc + 4 ∧ SameA s t ∧ SameV s t ∧ SameCsrs s t ∧ SameImem s t ∧ SameModel s t

/-- The checks of DMX on its CSRs, in order, each raising its fault (R88 checks 1 to 7, R136). -/
def Obligations.DmxShapeChecksFaultInOrder : Prop :=
  ∀ w mode s, WellFormed (.dmx w mode) = true →
    (s.nts.toNat = 0 → Raises (.dmx w mode) ⟨.preShape, s.slen⟩ s) ∧
    (s.nts.toNat ≠ 0 →
      (¬ ShapeFits mode s → Raises (.dmx w mode) ⟨.preShape, s.slen⟩ s) ∧
      (ShapeFits mode s →
        (¬ RowCountFits mode s → Raises (.dmx w mode) ⟨.preMultiple, s.nts⟩ s) ∧
        (RowCountFits mode s →
          (¬ TileFits w mode s.dsz.toNat → Raises (.dmx w mode) ⟨.preTile, s.dsz⟩ s) ∧
          (TileFits w mode s.dsz.toNat →
            (s.dcnt ≠ s.nts → Raises (.dmx w mode) ⟨.preCount, s.dcnt⟩ s) ∧
            (s.dcnt = s.nts →
              (s.dtab.toNat % 4 ≠ 0 → Raises (.dmx w mode) ⟨.misaligned, s.dtab⟩ s) ∧
              (s.dtab.toNat % 4 = 0 → s.params.dmemBytes < s.dtab.toNat + 8 * s.nts.toNat →
                Raises (.dmx w mode) ⟨.memRange, s.dtab⟩ s))))))

/-- The checks of DMX on its table, in order, each raising its fault for the first channel that fails it (R88 checks 9 to
12, R136). -/
def Obligations.DmxTableChecksFaultInOrder : Prop :=
  ∀ w mode s, WellFormed (.dmx w mode) = true → DmxShapeOk w mode s →
    (∀ c, c < s.nts.toNat → destLen s c ≠ expectedRows s mode → (∀ d, d < c → destLen s d = expectedRows s mode) →
      Raises (.dmx w mode) ⟨.preDlen, BitVec.ofNat 32 c⟩ s) ∧
    (LengthsFit mode s →
      (¬ TileFits w mode s.src.toNat → Raises (.dmx w mode) ⟨.preAlign, s.src⟩ s) ∧
      (TileFits w mode s.src.toNat → ∀ c, c < s.nts.toNat → ¬ TileFits w mode (destAddr s c) →
        (∀ d, d < c → TileFits w mode (destAddr s d)) →
        Raises (.dmx w mode) ⟨.preAlign, (s.tableEntry s.dtab.toNat c).addr⟩ s) ∧
      (BasesFit w mode s →
        (¬ SourceInRange s → Raises (.dmx w mode) ⟨.memRange, s.src⟩ s) ∧
        (SourceInRange s → ∀ c, c < s.nts.toNat → ¬ DestInRange mode s c → (∀ d, d < c → DestInRange mode s d) →
          Raises (.dmx w mode) ⟨.memRange, (s.tableEntry s.dtab.toNat c).addr⟩ s)))

/-- Every mode gives the same result (R90, R95, R96, R171): where a mode's checks pass, mode REF's pass too and DMX answers
the same state. That the unspecified bytes of an overlap agree as well is the model's choice (log 8): its free value does
not depend on the mode. -/
def Obligations.DmxModesAgree : Prop :=
  ∀ w mode s, WellFormed (.dmx w mode) = true → DmxReady w mode s →
    DmxReady .x .ref s ∧ exec (.dmx w mode) s = exec (.dmx .x .ref) s

/-! ### The oracle -/

/-- DCMP reports the first channel that differs, whatever stands after it, or 0xFFFF_FFFF where none does; it writes nothing
else (R117). -/
def Obligations.DcmpReportsTheFirstDifference : Prop :=
  ∀ ra s, DcmpTablesOk s →
    (∀ c, c < s.dcnt.toNat → (∀ d, d < c → CmpEqual s d) → CmpDiffers s c →
      ∃ t x, exec (.dcmp ra) s = .next t ∧ x.toNat = c ∧ WroteA ra x s t ∧ t.pc = s.pc + 4) ∧
    ((∀ c, c < s.dcnt.toNat → CmpEqual s c) →
      ∃ t, exec (.dcmp ra) s = .next t ∧ WroteA ra 0xFFFFFFFF s t ∧ t.pc = s.pc + 4)

/-- DCMP's faults in order: each table base aligned, then each table in range; then, at the first channel whose lengths
agree and whose buffers do not both fit, the range of the first buffer, then of the second (R117, R139). -/
def Obligations.DcmpFaultsInOrder : Prop :=
  ∀ ra s,
    (s.dtab.toNat % 4 ≠ 0 → Raises (.dcmp ra) ⟨.misaligned, s.dtab⟩ s) ∧
    (s.dtab.toNat % 4 = 0 → s.dtab2.toNat % 4 ≠ 0 → Raises (.dcmp ra) ⟨.misaligned, s.dtab2⟩ s) ∧
    (s.dtab.toNat % 4 = 0 → s.dtab2.toNat % 4 = 0 →
      (s.params.dmemBytes < s.dtab.toNat + 8 * s.dcnt.toNat → Raises (.dcmp ra) ⟨.memRange, s.dtab⟩ s) ∧
      (s.dtab.toNat + 8 * s.dcnt.toNat ≤ s.params.dmemBytes →
        s.params.dmemBytes < s.dtab2.toNat + 8 * s.dcnt.toNat → Raises (.dcmp ra) ⟨.memRange, s.dtab2⟩ s)) ∧
    (DcmpTablesOk s → ∀ c, c < s.dcnt.toNat → (∀ d, d < c → CmpEqual s d) → cmpLen1 s c = cmpLen2 s c →
      0 < cmpLen1 s c →
      (s.params.dmemBytes < cmpAddr1 s c + cmpLen1 s c →
        Raises (.dcmp ra) ⟨.memRange, (s.tableEntry s.dtab.toNat c).addr⟩ s) ∧
      (cmpAddr1 s c + cmpLen1 s c ≤ s.params.dmemBytes → s.params.dmemBytes < cmpAddr2 s c + cmpLen1 s c →
        Raises (.dcmp ra) ⟨.memRange, (s.tableEntry s.dtab2.toNat c).addr⟩ s))

/-- DCMP twice with no write in between gives the same verdict twice (R118). -/
def Obligations.DcmpTwiceGivesTheSameVerdict : Prop :=
  ∀ ra rb s t, exec (.dcmp ra) s = .next t → t.pc = s.pc + 4 →
    ∃ u, exec (.dcmp rb) t = .next u ∧ u.pc = t.pc + 4 ∧ (ra ≠ 0 → rb ≠ 0 → u.readA rb = t.readA ra)

/-! ### The host -/

/-- START (R152): while idle it clears DONE, FAULT and CAUSE, puts ENTRY in the pc and starts the run, and registers,
configuration, FAULT_PC, FAULT_INFO and memory keep their values; while running it is ignored. That the same write's IE bit
is taken, idle or running, is the model's choice (log 22; R29, R151). -/
def Obligations.StartBeginsARunAtEntry : Prop :=
  ∀ (s : State) (off : Nat) (v : Word), off < 4 → v.getLsbD 0 = true → v.getLsbD 2 = false →
    (s.run = false → ∃ t, s.hostTurn (.write off v) = t ∧
      t.run = true ∧ t.done = false ∧ t.fault = false ∧ t.cause = 0 ∧ t.pc = s.entry ∧ t.csrRead .pc = s.entry ∧
      t.ie = v.getLsbD 1 ∧ SameControl s t ∧ SameConfig s t ∧ SameA s t ∧ SameV s t ∧ SameDmem s t ∧ SameImem s t) ∧
    (s.run = true → s.hostTurn (.write off v) = { s with ie := v.getLsbD 1 })

/-- While the sequencer runs, a host write anywhere but CTRL is discarded (R66, R151). -/
def Obligations.HostWritesWhileRunningAreDiscarded : Prop :=
  ∀ (s : State) (off : Nat) (v : Word), s.run = true → 4 ≤ off → s.hostTurn (.write off v) = s

/-- What the host reads (R149, R44): a CSR at four times its number, an IMEM or DMEM word in its window while idle, and 0
at an unimplemented CSR, above the end of a memory and outside the windows. That it is 0 above the end of a memory while the
sequencer runs too is the model's choice (log 10). -/
def Obligations.HostReadsThroughTheWindows : Prop :=
  ∀ (s : State) (off : Nat), s.params.legal →
    (∀ c, off / 4 = (Csr.number c).toNat → (s.hostTurn (.read off)).portData = s.csrRead c) ∧
    (0x3C ≤ off → off < 0x10000 → (s.hostTurn (.read off)).portData = 0) ∧
    (∀ k, off / 4 = 0x4000 + k → k < 0x4000 →
      (k < s.params.imemWords → s.run = false → (s.hostTurn (.read off)).portData = s.imemWord k) ∧
      (s.params.imemWords ≤ k → (s.hostTurn (.read off)).portData = 0)) ∧
    (0x20000 ≤ off → off < 0x100000 → (s.hostTurn (.read off)).portData = 0) ∧
    (∀ a, off / 4 * 4 = 0x100000 + a → a < 0x100000 →
      (a < s.params.dmemBytes → s.run = false → (s.hostTurn (.read off)).portData = s.wordAt a) ∧
      (s.params.dmemBytes ≤ a → (s.hostTurn (.read off)).portData = 0)) ∧
    (0x200000 ≤ off → (s.hostTurn (.read off)).portData = 0)

/-- What an idle host write does (R149, R26, R27, R29 to R31, R44), and nothing else (R150): a memory window word, one of the
writable CSRs, ENTRY with its low bits kept zero, IE, DONE and FAULT (with CAUSE) cleared by writing 1; RO CSRs and places
that do not exist ignore it. -/
def Obligations.HostWritesThroughTheWindows : Prop :=
  ∀ (s : State) (off : Nat) (v : Word), s.params.legal → s.run = false →
    (∀ k, off / 4 = 0x4000 + k → k < s.params.imemWords → ∃ t, s.hostTurn (.write off v) = t ∧
      t = { s with imem := t.imem } ∧ SameDmem s t ∧
      ∀ x, t.imemWord x = if x = k then v else s.imemWord x) ∧
    (∀ a, off / 4 * 4 = 0x100000 + a → a < s.params.dmemBytes → ∃ t, s.hostTurn (.write off v) = t ∧
      t = { s with dmem := t.dmem } ∧ SameImem s t ∧
      ∀ x, t.byteAt x = if a ≤ x ∧ x < a + 4 then wordByte v (x - a) else s.byteAt x) ∧
    (∀ c, off / 4 = (Csr.number c).toNat → Csr.programWritable c = true →
      s.hostTurn (.write off v) = s.csrWrite c v) ∧
    (off / 4 = 0 → v.getLsbD 0 = false → v.getLsbD 2 = false →
      s.hostTurn (.write off v) = { s with ie := v.getLsbD 1 }) ∧
    (off / 4 = 2 → ∃ e : Word, e.toNat = v.toNat / 4 * 4 ∧ s.hostTurn (.write off v) = { s with entry := e }) ∧
    (off / 4 = 1 → s.hostTurn (.write off v) =
      { s with
        done := s.done && !v.getLsbD 1
        fault := s.fault && !v.getLsbD 2
        cause := if v.getLsbD 2 then 0 else s.cause }) ∧
    (∀ k, off / 4 = 0x4000 + k → k < 0x4000 → s.params.imemWords ≤ k → s.hostTurn (.write off v) = s) ∧
    (∀ a, off / 4 * 4 = 0x100000 + a → a < 0x100000 → s.params.dmemBytes ≤ a → s.hostTurn (.write off v) = s) ∧
    (off / 4 = 3 ∨ (4 ≤ off / 4 ∧ off / 4 ≤ 7) ∨ (0x3C ≤ off ∧ off < 0x10000) ∨
      (0x20000 ≤ off ∧ off < 0x100000) ∨ 0x200000 ≤ off → s.hostTurn (.write off v) = s)

/-- Soft reset (R161, R29): a host write of CTRL with SRST resets every register and CSR at any time, whatever START says;
IMEM is kept, DMEM is kept while idle, and while running it is kept outside the bytes the interrupted instruction was
writing. The model's choices: that instruction is the one at the pc (log 9), and IE is 0 after the write whatever the
write's IE bit is (log 14). -/
def Obligations.SoftResetKeepsMemory : Prop :=
  ∀ (s : State) (off : Nat) (v : Word), off < 4 → v.getLsbD 2 = true →
    ∃ t, s.hostTurn (.write off v) = t ∧ AtResetValues t ∧ t.params = s.params ∧ SameImem s t ∧
      (s.run = false → SameDmem s t) ∧
      (∀ trap, s.fetch = .error trap → SameDmem s t) ∧
      (∀ i, s.fetch = .ok i → WritesDmem i = false → SameDmem s t) ∧
      ∀ i x, s.fetch = .ok i →
        (∀ b ∈ s.writtenBlocks i, ¬ (b.1 ≤ x ∧ x < b.1 + b.2)) → t.byteAt x = s.byteAt x

/-- IRQ (R146): a level, on exactly while IE is 1 and DONE or FAULT is 1; cleared by the host clearing DONE and FAULT, by
START, by clearing IE, or by either reset. -/
def Obligations.IrqFollowsDoneAndFault : Prop :=
  (∀ s : State, s.irq = true ↔ s.ie = true ∧ (s.done = true ∨ s.fault = true)) ∧
  (∀ (s : State) (v : Word), s.run = false → v.getLsbD 1 = true → v.getLsbD 2 = true →
    (s.hostTurn (.write 4 v)).irq = false) ∧
  (∀ (s : State) (v : Word), s.run = false → v.getLsbD 0 = true → (s.hostTurn (.write 0 v)).irq = false) ∧
  (∀ (s : State) (v : Word), v.getLsbD 1 = false → (s.hostTurn (.write 0 v)).irq = false) ∧
  ∀ s : State, s.softReset.irq = false ∧ (s.hostTurn .powerOn).irq = false
end

