-- ==== Sys2Proof/Laws/Memory.lean ====
section
/-!
SUPPORT. The laws of a memory: read after write, and that every write keeps the canonical form.
-/

namespace Sys2Proof.Machine

variable {w : Nat}

theorem Memory.lookup_append (m n : List (Nat × BitVec w)) (a : Nat) :
    Memory.lookup (m ++ n) a = (Memory.lookup m a).or (Memory.lookup n a) := by
  induction m with
  | nil => simp [Memory.lookup]
  | cons c m ih => by_cases h : c.1 = a <;> simp [Memory.lookup, h, ih]

/-- A filter by address answers the memory at the addresses it keeps and nothing at the others. -/
theorem Memory.lookup_filter (p : Nat → Bool) (m : List (Nat × BitVec w)) (a : Nat) :
    Memory.lookup (m.filter fun c => p c.1) a = if p a then Memory.lookup m a else none := by
  induction m with
  | nil => simp [Memory.lookup]
  | cons c m ih =>
    by_cases hc : p c.1 <;> by_cases h : c.1 = a <;> simp_all [Memory.lookup]

theorem Memory.lookup_block (b : Nat) (xs : List (BitVec w)) (a : Nat) :
    Memory.lookup (Memory.block b xs) a = if b ≤ a then xs[a - b]? else none := by
  induction xs generalizing b with
  | nil => simp [Memory.block, Memory.lookup]
  | cons x xs ih =>
    simp only [Memory.block, Memory.lookup, ih]
    by_cases h : b = a
    · simp [h]
    · by_cases h2 : b + 1 ≤ a
      · have h3 : a - b = (a - (b + 1)) + 1 := by omega
        have h4 : b ≤ a := by omega
        simp [h, h2, h3, h4]
      · have h4 : ¬ b ≤ a := by omega
        simp [h, h2, h4]

/-- Read after write: the block at its own addresses, the old contents everywhere else. -/
theorem Memory.lookup_write (m : List (Nat × BitVec w)) (b : Nat) (xs : List (BitVec w)) (a : Nat) :
    Memory.lookup (Memory.write m b xs) a =
      if b ≤ a ∧ a < b + xs.length then xs[a - b]? else Memory.lookup m a := by
  have hlo := Memory.lookup_filter (fun k => decide (k < b)) m a
  have hhi := Memory.lookup_filter (fun k => decide (b + xs.length ≤ k)) m a
  rw [Memory.write, Memory.lookup_append, Memory.lookup_append, Memory.lookup_block, hlo, hhi]
  rcases Nat.lt_or_ge a b with h | h
  · have h1 : ¬ b ≤ a := by omega
    have h2 : ¬ b + xs.length ≤ a := by omega
    simp [h, h1, h2]
  · rcases Nat.lt_or_ge a (b + xs.length) with h2 | h2
    · have h3 : ¬ a < b := by omega
      have h4 : ¬ b + xs.length ≤ a := by omega
      simp [h, h2, h3, h4]
    · have h3 : ¬ a < b := by omega
      have h4 : xs.length ≤ a - b := by omega
      have h5 : ¬ a < b + xs.length := by omega
      simp [h, h2, h3, h5, List.getElem?_eq_none h4]

/-- The canonical form says that the addresses rise pairwise. -/
theorem Memory.wf_iff_pairwise (m : List (Nat × BitVec w)) :
    Memory.wf m = true ↔ m.Pairwise (fun c d => c.1 < d.1) := by
  induction m with
  | nil => simp [Memory.wf]
  | cons c m ih =>
    cases m with
    | nil => simp [Memory.wf]
    | cons d m =>
      simp only [Memory.wf, Bool.and_eq_true, decide_eq_true_eq, ih]
      constructor
      · rintro ⟨h, hp⟩
        refine List.pairwise_cons.2 ⟨fun e he => ?_, hp⟩
        rcases List.mem_cons.1 he with rfl | he
        · exact h
        · exact Nat.lt_trans h ((List.pairwise_cons.1 hp).1 e he)
      · intro hp
        exact ⟨(List.pairwise_cons.1 hp).1 d List.mem_cons_self, (List.pairwise_cons.1 hp).2⟩

theorem Memory.mem_block (b : Nat) (xs : List (BitVec w)) (c : Nat × BitVec w) (h : c ∈ Memory.block b xs) :
    b ≤ c.1 ∧ c.1 < b + xs.length := by
  induction xs generalizing b with
  | nil => simp [Memory.block] at h
  | cons x xs ih =>
    rcases List.mem_cons.1 h with rfl | h
    · simp
    · have := ih (b + 1) h
      simp only [List.length_cons]
      omega

theorem Memory.block_pairwise (b : Nat) (xs : List (BitVec w)) :
    (Memory.block b xs).Pairwise (fun c d => c.1 < d.1) := by
  induction xs generalizing b with
  | nil => simp [Memory.block]
  | cons x xs ih =>
    exact List.pairwise_cons.2 ⟨fun c hc => by have := Memory.mem_block _ _ _ hc; omega, ih (b + 1)⟩

/-- Every write keeps the canonical form. -/
theorem Memory.write_wf (m : List (Nat × BitVec w)) (b : Nat) (xs : List (BitVec w)) (h : Memory.wf m = true) :
    Memory.wf (Memory.write m b xs) = true := by
  rw [Memory.wf_iff_pairwise] at h ⊢
  rw [Memory.write]
  refine List.pairwise_append.2 ⟨List.pairwise_append.2 ⟨h.filter _, Memory.block_pairwise b xs, ?_⟩, h.filter _, ?_⟩
  · intro c hc d hd
    have := Memory.mem_block _ _ _ hd
    simp only [List.mem_filter, decide_eq_true_eq] at hc
    omega
  · intro c hc d hd
    simp only [List.mem_filter, decide_eq_true_eq] at hd
    rcases List.mem_append.1 hc with hc | hc
    · simp only [List.mem_filter, decide_eq_true_eq] at hc
      omega
    · have := Memory.mem_block _ _ _ hc
      omega

/-- A write inside the range keeps every listed address in it. -/
theorem Memory.write_below (n : Nat) (m : List (Nat × BitVec w)) (b : Nat) (xs : List (BitVec w))
    (h : Memory.below n m = true) (hb : b + xs.length ≤ n) : Memory.below n (Memory.write m b xs) = true := by
  simp only [Memory.below, List.all_eq_true, decide_eq_true_eq, Memory.write, List.mem_append, List.mem_filter] at *
  rintro c ((⟨hc, -⟩ | hc) | ⟨hc, -⟩)
  · exact h c hc
  · have := Memory.mem_block _ _ _ hc
    omega
  · exact h c hc

/-- A write of an empty block, or of one inside the range, keeps every listed address in it. -/
theorem Memory.write_below_of_empty_or (n : Nat) (m : List (Nat × BitVec w)) (b : Nat) (xs : List (BitVec w))
    (h : Memory.below n m = true) (hb : xs.length = 0 ∨ b + xs.length ≤ n) :
    Memory.below n (Memory.write m b xs) = true := by
  rcases hb with hb | hb
  · simp only [List.length_eq_zero_iff] at hb
    subst hb
    simp only [Memory.below, List.all_eq_true, decide_eq_true_eq, Memory.write, Memory.block, List.append_nil,
      List.mem_append, List.mem_filter] at *
    rintro c (⟨hc, -⟩ | ⟨hc, -⟩)
    · exact h c hc
    · exact h c hc
  · exact Memory.write_below n m b xs h hb

/-- Two memories in canonical form that read alike are the same list. -/
theorem Memory.eq_of_lookup_eq (m n : List (Nat × BitVec w)) (hm : Memory.wf m = true) (hn : Memory.wf n = true)
    (h : ∀ a, Memory.lookup m a = Memory.lookup n a) : m = n := by
  have none_of_lt : ∀ (l : List (Nat × BitVec w)) (a : Nat), (∀ c ∈ l, a < c.1) → Memory.lookup l a = none := by
    intro l a hl
    induction l with
    | nil => rfl
    | cons c l ih =>
      have := hl c List.mem_cons_self
      have hne : c.1 ≠ a := by omega
      simp [Memory.lookup, hne, ih fun d hd => hl d (List.mem_cons_of_mem _ hd)]
  rw [Memory.wf_iff_pairwise] at hm hn
  induction m generalizing n with
  | nil =>
    cases n with
    | nil => rfl
    | cons d n => have := h d.1; simp [Memory.lookup] at this
  | cons c m ih =>
    cases n with
    | nil => have := h c.1; simp [Memory.lookup] at this
    | cons d n =>
      have hm' := List.pairwise_cons.1 hm
      have hn' := List.pairwise_cons.1 hn
      have hkey : c.1 = d.1 := by
        rcases Nat.lt_trichotomy c.1 d.1 with hlt | heq | hgt
        · have h1 := h c.1
          rw [none_of_lt (d :: n) c.1 (by
            intro e he
            rcases List.mem_cons.1 he with rfl | he
            · exact hlt
            · exact Nat.lt_trans hlt (hn'.1 e he))] at h1
          simp [Memory.lookup] at h1
        · exact heq
        · have h1 := h d.1
          rw [none_of_lt (c :: m) d.1 (by
            intro e he
            rcases List.mem_cons.1 he with rfl | he
            · exact hgt
            · exact Nat.lt_trans hgt (hm'.1 e he))] at h1
          simp [Memory.lookup] at h1
      have hval : c.2 = d.2 := by
        have h1 := h c.1
        simpa [Memory.lookup, hkey] using h1
      have htail : m = n := by
        refine ih n hm'.2 hn'.2 fun a => ?_
        by_cases ha : c.1 = a
        · subst ha
          rw [none_of_lt m c.1 hm'.1, none_of_lt n c.1 (by rw [hkey]; exact hn'.1)]
        · have h1 := h a
          have ha' : d.1 ≠ a := by rw [← hkey]; exact ha
          simpa [Memory.lookup, ha, ha'] using h1
      rw [htail, Prod.ext hkey hval]

end Sys2Proof.Machine
end

