-- ==== Sys2Proof/Laws/State.lean ====
section
/-!
SUPPORT. What every update of State does to every field: one lemma per field per update, so that no proof unfolds a record.
-/

namespace Sys2Proof.Machine

variable (s : State)

/-! ### writeA -/

@[simp] theorem State.writeA_params (r : AReg) (x : Word) : (s.writeA r x).params = s.params := rfl
@[simp] theorem State.writeA_a (r : AReg) (x : Word) : (s.writeA r x).a = if r = 0 then s.a else s.a.set r x := rfl
@[simp] theorem State.writeA_v (r : AReg) (x : Word) : (s.writeA r x).v = s.v := rfl
@[simp] theorem State.writeA_pc (r : AReg) (x : Word) : (s.writeA r x).pc = s.pc := rfl
@[simp] theorem State.writeA_ie (r : AReg) (x : Word) : (s.writeA r x).ie = s.ie := rfl
@[simp] theorem State.writeA_run (r : AReg) (x : Word) : (s.writeA r x).run = s.run := rfl
@[simp] theorem State.writeA_done (r : AReg) (x : Word) : (s.writeA r x).done = s.done := rfl
@[simp] theorem State.writeA_fault (r : AReg) (x : Word) : (s.writeA r x).fault = s.fault := rfl
@[simp] theorem State.writeA_cause (r : AReg) (x : Word) : (s.writeA r x).cause = s.cause := rfl
@[simp] theorem State.writeA_entry (r : AReg) (x : Word) : (s.writeA r x).entry = s.entry := rfl
@[simp] theorem State.writeA_faultPc (r : AReg) (x : Word) : (s.writeA r x).faultPc = s.faultPc := rfl
@[simp] theorem State.writeA_faultInfo (r : AReg) (x : Word) : (s.writeA r x).faultInfo = s.faultInfo := rfl
@[simp] theorem State.writeA_nts (r : AReg) (x : Word) : (s.writeA r x).nts = s.nts := rfl
@[simp] theorem State.writeA_dsz (r : AReg) (x : Word) : (s.writeA r x).dsz = s.dsz := rfl
@[simp] theorem State.writeA_src (r : AReg) (x : Word) : (s.writeA r x).src = s.src := rfl
@[simp] theorem State.writeA_slen (r : AReg) (x : Word) : (s.writeA r x).slen = s.slen := rfl
@[simp] theorem State.writeA_dtab (r : AReg) (x : Word) : (s.writeA r x).dtab = s.dtab := rfl
@[simp] theorem State.writeA_dcnt (r : AReg) (x : Word) : (s.writeA r x).dcnt = s.dcnt := rfl
@[simp] theorem State.writeA_dtab2 (r : AReg) (x : Word) : (s.writeA r x).dtab2 = s.dtab2 := rfl
@[simp] theorem State.writeA_imem (r : AReg) (x : Word) : (s.writeA r x).imem = s.imem := rfl
@[simp] theorem State.writeA_dmem (r : AReg) (x : Word) : (s.writeA r x).dmem = s.dmem := rfl
@[simp] theorem State.writeA_fillSeed (r : AReg) (x : Word) : (s.writeA r x).fillSeed = s.fillSeed := rfl
@[simp] theorem State.writeA_freshSeed (r : AReg) (x : Word) : (s.writeA r x).freshSeed = s.freshSeed := rfl
@[simp] theorem State.writeA_turns (r : AReg) (x : Word) : (s.writeA r x).turns = s.turns := rfl
@[simp] theorem State.writeA_portData (r : AReg) (x : Word) : (s.writeA r x).portData = s.portData := rfl

/-! ### writeV -/

@[simp] theorem State.writeV_params (r : VReg) (t : Tile) : (s.writeV r t).params = s.params := rfl
@[simp] theorem State.writeV_a (r : VReg) (t : Tile) : (s.writeV r t).a = s.a := rfl
@[simp] theorem State.writeV_v (r : VReg) (t : Tile) : (s.writeV r t).v = s.v.set r t := rfl
@[simp] theorem State.writeV_pc (r : VReg) (t : Tile) : (s.writeV r t).pc = s.pc := rfl
@[simp] theorem State.writeV_ie (r : VReg) (t : Tile) : (s.writeV r t).ie = s.ie := rfl
@[simp] theorem State.writeV_run (r : VReg) (t : Tile) : (s.writeV r t).run = s.run := rfl
@[simp] theorem State.writeV_done (r : VReg) (t : Tile) : (s.writeV r t).done = s.done := rfl
@[simp] theorem State.writeV_fault (r : VReg) (t : Tile) : (s.writeV r t).fault = s.fault := rfl
@[simp] theorem State.writeV_cause (r : VReg) (t : Tile) : (s.writeV r t).cause = s.cause := rfl
@[simp] theorem State.writeV_entry (r : VReg) (t : Tile) : (s.writeV r t).entry = s.entry := rfl
@[simp] theorem State.writeV_faultPc (r : VReg) (t : Tile) : (s.writeV r t).faultPc = s.faultPc := rfl
@[simp] theorem State.writeV_faultInfo (r : VReg) (t : Tile) : (s.writeV r t).faultInfo = s.faultInfo := rfl
@[simp] theorem State.writeV_nts (r : VReg) (t : Tile) : (s.writeV r t).nts = s.nts := rfl
@[simp] theorem State.writeV_dsz (r : VReg) (t : Tile) : (s.writeV r t).dsz = s.dsz := rfl
@[simp] theorem State.writeV_src (r : VReg) (t : Tile) : (s.writeV r t).src = s.src := rfl
@[simp] theorem State.writeV_slen (r : VReg) (t : Tile) : (s.writeV r t).slen = s.slen := rfl
@[simp] theorem State.writeV_dtab (r : VReg) (t : Tile) : (s.writeV r t).dtab = s.dtab := rfl
@[simp] theorem State.writeV_dcnt (r : VReg) (t : Tile) : (s.writeV r t).dcnt = s.dcnt := rfl
@[simp] theorem State.writeV_dtab2 (r : VReg) (t : Tile) : (s.writeV r t).dtab2 = s.dtab2 := rfl
@[simp] theorem State.writeV_imem (r : VReg) (t : Tile) : (s.writeV r t).imem = s.imem := rfl
@[simp] theorem State.writeV_dmem (r : VReg) (t : Tile) : (s.writeV r t).dmem = s.dmem := rfl
@[simp] theorem State.writeV_fillSeed (r : VReg) (t : Tile) : (s.writeV r t).fillSeed = s.fillSeed := rfl
@[simp] theorem State.writeV_freshSeed (r : VReg) (t : Tile) : (s.writeV r t).freshSeed = s.freshSeed := rfl
@[simp] theorem State.writeV_turns (r : VReg) (t : Tile) : (s.writeV r t).turns = s.turns := rfl
@[simp] theorem State.writeV_portData (r : VReg) (t : Tile) : (s.writeV r t).portData = s.portData := rfl

/-! ### setPc -/

@[simp] theorem State.setPc_params (p : Word) : (s.setPc p).params = s.params := rfl
@[simp] theorem State.setPc_a (p : Word) : (s.setPc p).a = s.a := rfl
@[simp] theorem State.setPc_v (p : Word) : (s.setPc p).v = s.v := rfl
@[simp] theorem State.setPc_pc (p : Word) : (s.setPc p).pc = p := rfl
@[simp] theorem State.setPc_ie (p : Word) : (s.setPc p).ie = s.ie := rfl
@[simp] theorem State.setPc_run (p : Word) : (s.setPc p).run = s.run := rfl
@[simp] theorem State.setPc_done (p : Word) : (s.setPc p).done = s.done := rfl
@[simp] theorem State.setPc_fault (p : Word) : (s.setPc p).fault = s.fault := rfl
@[simp] theorem State.setPc_cause (p : Word) : (s.setPc p).cause = s.cause := rfl
@[simp] theorem State.setPc_entry (p : Word) : (s.setPc p).entry = s.entry := rfl
@[simp] theorem State.setPc_faultPc (p : Word) : (s.setPc p).faultPc = s.faultPc := rfl
@[simp] theorem State.setPc_faultInfo (p : Word) : (s.setPc p).faultInfo = s.faultInfo := rfl
@[simp] theorem State.setPc_nts (p : Word) : (s.setPc p).nts = s.nts := rfl
@[simp] theorem State.setPc_dsz (p : Word) : (s.setPc p).dsz = s.dsz := rfl
@[simp] theorem State.setPc_src (p : Word) : (s.setPc p).src = s.src := rfl
@[simp] theorem State.setPc_slen (p : Word) : (s.setPc p).slen = s.slen := rfl
@[simp] theorem State.setPc_dtab (p : Word) : (s.setPc p).dtab = s.dtab := rfl
@[simp] theorem State.setPc_dcnt (p : Word) : (s.setPc p).dcnt = s.dcnt := rfl
@[simp] theorem State.setPc_dtab2 (p : Word) : (s.setPc p).dtab2 = s.dtab2 := rfl
@[simp] theorem State.setPc_imem (p : Word) : (s.setPc p).imem = s.imem := rfl
@[simp] theorem State.setPc_dmem (p : Word) : (s.setPc p).dmem = s.dmem := rfl
@[simp] theorem State.setPc_fillSeed (p : Word) : (s.setPc p).fillSeed = s.fillSeed := rfl
@[simp] theorem State.setPc_freshSeed (p : Word) : (s.setPc p).freshSeed = s.freshSeed := rfl
@[simp] theorem State.setPc_turns (p : Word) : (s.setPc p).turns = s.turns := rfl
@[simp] theorem State.setPc_portData (p : Word) : (s.setPc p).portData = s.portData := rfl

/-! ### advance -/

@[simp] theorem State.advance_params : s.advance.params = s.params := rfl
@[simp] theorem State.advance_a : s.advance.a = s.a := rfl
@[simp] theorem State.advance_v : s.advance.v = s.v := rfl
@[simp] theorem State.advance_pc : s.advance.pc = s.pc + 4 := rfl
@[simp] theorem State.advance_ie : s.advance.ie = s.ie := rfl
@[simp] theorem State.advance_run : s.advance.run = s.run := rfl
@[simp] theorem State.advance_done : s.advance.done = s.done := rfl
@[simp] theorem State.advance_fault : s.advance.fault = s.fault := rfl
@[simp] theorem State.advance_cause : s.advance.cause = s.cause := rfl
@[simp] theorem State.advance_entry : s.advance.entry = s.entry := rfl
@[simp] theorem State.advance_faultPc : s.advance.faultPc = s.faultPc := rfl
@[simp] theorem State.advance_faultInfo : s.advance.faultInfo = s.faultInfo := rfl
@[simp] theorem State.advance_nts : s.advance.nts = s.nts := rfl
@[simp] theorem State.advance_dsz : s.advance.dsz = s.dsz := rfl
@[simp] theorem State.advance_src : s.advance.src = s.src := rfl
@[simp] theorem State.advance_slen : s.advance.slen = s.slen := rfl
@[simp] theorem State.advance_dtab : s.advance.dtab = s.dtab := rfl
@[simp] theorem State.advance_dcnt : s.advance.dcnt = s.dcnt := rfl
@[simp] theorem State.advance_dtab2 : s.advance.dtab2 = s.dtab2 := rfl
@[simp] theorem State.advance_imem : s.advance.imem = s.imem := rfl
@[simp] theorem State.advance_dmem : s.advance.dmem = s.dmem := rfl
@[simp] theorem State.advance_fillSeed : s.advance.fillSeed = s.fillSeed := rfl
@[simp] theorem State.advance_freshSeed : s.advance.freshSeed = s.freshSeed := rfl
@[simp] theorem State.advance_turns : s.advance.turns = s.turns := rfl
@[simp] theorem State.advance_portData : s.advance.portData = s.portData := rfl

/-! ### storeBytes -/

@[simp] theorem State.storeBytes_params (a : Nat) (bs : List Byte) : (s.storeBytes a bs).params = s.params := rfl
@[simp] theorem State.storeBytes_a (a : Nat) (bs : List Byte) : (s.storeBytes a bs).a = s.a := rfl
@[simp] theorem State.storeBytes_v (a : Nat) (bs : List Byte) : (s.storeBytes a bs).v = s.v := rfl
@[simp] theorem State.storeBytes_pc (a : Nat) (bs : List Byte) : (s.storeBytes a bs).pc = s.pc := rfl
@[simp] theorem State.storeBytes_ie (a : Nat) (bs : List Byte) : (s.storeBytes a bs).ie = s.ie := rfl
@[simp] theorem State.storeBytes_run (a : Nat) (bs : List Byte) : (s.storeBytes a bs).run = s.run := rfl
@[simp] theorem State.storeBytes_done (a : Nat) (bs : List Byte) : (s.storeBytes a bs).done = s.done := rfl
@[simp] theorem State.storeBytes_fault (a : Nat) (bs : List Byte) : (s.storeBytes a bs).fault = s.fault := rfl
@[simp] theorem State.storeBytes_cause (a : Nat) (bs : List Byte) : (s.storeBytes a bs).cause = s.cause := rfl
@[simp] theorem State.storeBytes_entry (a : Nat) (bs : List Byte) : (s.storeBytes a bs).entry = s.entry := rfl
@[simp] theorem State.storeBytes_faultPc (a : Nat) (bs : List Byte) : (s.storeBytes a bs).faultPc = s.faultPc := rfl
@[simp] theorem State.storeBytes_faultInfo (a : Nat) (bs : List Byte) : (s.storeBytes a bs).faultInfo = s.faultInfo := rfl
@[simp] theorem State.storeBytes_nts (a : Nat) (bs : List Byte) : (s.storeBytes a bs).nts = s.nts := rfl
@[simp] theorem State.storeBytes_dsz (a : Nat) (bs : List Byte) : (s.storeBytes a bs).dsz = s.dsz := rfl
@[simp] theorem State.storeBytes_src (a : Nat) (bs : List Byte) : (s.storeBytes a bs).src = s.src := rfl
@[simp] theorem State.storeBytes_slen (a : Nat) (bs : List Byte) : (s.storeBytes a bs).slen = s.slen := rfl
@[simp] theorem State.storeBytes_dtab (a : Nat) (bs : List Byte) : (s.storeBytes a bs).dtab = s.dtab := rfl
@[simp] theorem State.storeBytes_dcnt (a : Nat) (bs : List Byte) : (s.storeBytes a bs).dcnt = s.dcnt := rfl
@[simp] theorem State.storeBytes_dtab2 (a : Nat) (bs : List Byte) : (s.storeBytes a bs).dtab2 = s.dtab2 := rfl
@[simp] theorem State.storeBytes_imem (a : Nat) (bs : List Byte) : (s.storeBytes a bs).imem = s.imem := rfl
@[simp] theorem State.storeBytes_dmem (a : Nat) (bs : List Byte) : (s.storeBytes a bs).dmem = Memory.write s.dmem a bs := rfl
@[simp] theorem State.storeBytes_fillSeed (a : Nat) (bs : List Byte) : (s.storeBytes a bs).fillSeed = s.fillSeed := rfl
@[simp] theorem State.storeBytes_freshSeed (a : Nat) (bs : List Byte) : (s.storeBytes a bs).freshSeed = s.freshSeed := rfl
@[simp] theorem State.storeBytes_turns (a : Nat) (bs : List Byte) : (s.storeBytes a bs).turns = s.turns := rfl
@[simp] theorem State.storeBytes_portData (a : Nat) (bs : List Byte) : (s.storeBytes a bs).portData = s.portData := rfl

/-! ### raise -/

@[simp] theorem State.raise_params (t : Trap) : (s.raise t).params = s.params := rfl
@[simp] theorem State.raise_a (t : Trap) : (s.raise t).a = s.a := rfl
@[simp] theorem State.raise_v (t : Trap) : (s.raise t).v = s.v := rfl
@[simp] theorem State.raise_pc (t : Trap) : (s.raise t).pc = s.pc := rfl
@[simp] theorem State.raise_ie (t : Trap) : (s.raise t).ie = s.ie := rfl
@[simp] theorem State.raise_run (t : Trap) : (s.raise t).run = false := rfl
@[simp] theorem State.raise_done (t : Trap) : (s.raise t).done = s.done := rfl
@[simp] theorem State.raise_fault (t : Trap) : (s.raise t).fault = true := rfl
@[simp] theorem State.raise_cause (t : Trap) : (s.raise t).cause = t.cause.code := rfl
@[simp] theorem State.raise_entry (t : Trap) : (s.raise t).entry = s.entry := rfl
@[simp] theorem State.raise_faultPc (t : Trap) : (s.raise t).faultPc = s.pc := rfl
@[simp] theorem State.raise_faultInfo (t : Trap) : (s.raise t).faultInfo = t.info := rfl
@[simp] theorem State.raise_nts (t : Trap) : (s.raise t).nts = s.nts := rfl
@[simp] theorem State.raise_dsz (t : Trap) : (s.raise t).dsz = s.dsz := rfl
@[simp] theorem State.raise_src (t : Trap) : (s.raise t).src = s.src := rfl
@[simp] theorem State.raise_slen (t : Trap) : (s.raise t).slen = s.slen := rfl
@[simp] theorem State.raise_dtab (t : Trap) : (s.raise t).dtab = s.dtab := rfl
@[simp] theorem State.raise_dcnt (t : Trap) : (s.raise t).dcnt = s.dcnt := rfl
@[simp] theorem State.raise_dtab2 (t : Trap) : (s.raise t).dtab2 = s.dtab2 := rfl
@[simp] theorem State.raise_imem (t : Trap) : (s.raise t).imem = s.imem := rfl
@[simp] theorem State.raise_dmem (t : Trap) : (s.raise t).dmem = s.dmem := rfl
@[simp] theorem State.raise_fillSeed (t : Trap) : (s.raise t).fillSeed = s.fillSeed := rfl
@[simp] theorem State.raise_freshSeed (t : Trap) : (s.raise t).freshSeed = s.freshSeed := rfl
@[simp] theorem State.raise_turns (t : Trap) : (s.raise t).turns = s.turns := rfl
@[simp] theorem State.raise_portData (t : Trap) : (s.raise t).portData = s.portData := rfl

/-! ### endRun -/

@[simp] theorem State.endRun_params : s.endRun.params = s.params := rfl
@[simp] theorem State.endRun_a : s.endRun.a = s.a := rfl
@[simp] theorem State.endRun_v : s.endRun.v = s.v := rfl
@[simp] theorem State.endRun_pc : s.endRun.pc = s.pc := rfl
@[simp] theorem State.endRun_ie : s.endRun.ie = s.ie := rfl
@[simp] theorem State.endRun_run : s.endRun.run = false := rfl
@[simp] theorem State.endRun_done : s.endRun.done = true := rfl
@[simp] theorem State.endRun_fault : s.endRun.fault = s.fault := rfl
@[simp] theorem State.endRun_cause : s.endRun.cause = s.cause := rfl
@[simp] theorem State.endRun_entry : s.endRun.entry = s.entry := rfl
@[simp] theorem State.endRun_faultPc : s.endRun.faultPc = s.faultPc := rfl
@[simp] theorem State.endRun_faultInfo : s.endRun.faultInfo = s.faultInfo := rfl
@[simp] theorem State.endRun_nts : s.endRun.nts = s.nts := rfl
@[simp] theorem State.endRun_dsz : s.endRun.dsz = s.dsz := rfl
@[simp] theorem State.endRun_src : s.endRun.src = s.src := rfl
@[simp] theorem State.endRun_slen : s.endRun.slen = s.slen := rfl
@[simp] theorem State.endRun_dtab : s.endRun.dtab = s.dtab := rfl
@[simp] theorem State.endRun_dcnt : s.endRun.dcnt = s.dcnt := rfl
@[simp] theorem State.endRun_dtab2 : s.endRun.dtab2 = s.dtab2 := rfl
@[simp] theorem State.endRun_imem : s.endRun.imem = s.imem := rfl
@[simp] theorem State.endRun_dmem : s.endRun.dmem = s.dmem := rfl
@[simp] theorem State.endRun_fillSeed : s.endRun.fillSeed = s.fillSeed := rfl
@[simp] theorem State.endRun_freshSeed : s.endRun.freshSeed = s.freshSeed := rfl
@[simp] theorem State.endRun_turns : s.endRun.turns = s.turns := rfl
@[simp] theorem State.endRun_portData : s.endRun.portData = s.portData := rfl

/-! ### start -/

@[simp] theorem State.start_params : s.start.params = s.params := rfl
@[simp] theorem State.start_a : s.start.a = s.a := rfl
@[simp] theorem State.start_v : s.start.v = s.v := rfl
@[simp] theorem State.start_pc : s.start.pc = s.entry := rfl
@[simp] theorem State.start_ie : s.start.ie = s.ie := rfl
@[simp] theorem State.start_run : s.start.run = true := rfl
@[simp] theorem State.start_done : s.start.done = false := rfl
@[simp] theorem State.start_fault : s.start.fault = false := rfl
@[simp] theorem State.start_cause : s.start.cause = 0 := rfl
@[simp] theorem State.start_entry : s.start.entry = s.entry := rfl
@[simp] theorem State.start_faultPc : s.start.faultPc = s.faultPc := rfl
@[simp] theorem State.start_faultInfo : s.start.faultInfo = s.faultInfo := rfl
@[simp] theorem State.start_nts : s.start.nts = s.nts := rfl
@[simp] theorem State.start_dsz : s.start.dsz = s.dsz := rfl
@[simp] theorem State.start_src : s.start.src = s.src := rfl
@[simp] theorem State.start_slen : s.start.slen = s.slen := rfl
@[simp] theorem State.start_dtab : s.start.dtab = s.dtab := rfl
@[simp] theorem State.start_dcnt : s.start.dcnt = s.dcnt := rfl
@[simp] theorem State.start_dtab2 : s.start.dtab2 = s.dtab2 := rfl
@[simp] theorem State.start_imem : s.start.imem = s.imem := rfl
@[simp] theorem State.start_dmem : s.start.dmem = s.dmem := rfl
@[simp] theorem State.start_fillSeed : s.start.fillSeed = s.fillSeed := rfl
@[simp] theorem State.start_freshSeed : s.start.freshSeed = s.freshSeed := rfl
@[simp] theorem State.start_turns : s.start.turns = s.turns := rfl
@[simp] theorem State.start_portData : s.start.portData = s.portData := rfl

/-! ### writeRows -/

@[simp] theorem State.writeRows_params (v0 v1 v2 v3 : VReg) (t : Nat → Tile) : (s.writeRows v0 v1 v2 v3 t).params = s.params := rfl
@[simp] theorem State.writeRows_a (v0 v1 v2 v3 : VReg) (t : Nat → Tile) : (s.writeRows v0 v1 v2 v3 t).a = s.a := rfl
@[simp] theorem State.writeRows_pc (v0 v1 v2 v3 : VReg) (t : Nat → Tile) : (s.writeRows v0 v1 v2 v3 t).pc = s.pc := rfl
@[simp] theorem State.writeRows_ie (v0 v1 v2 v3 : VReg) (t : Nat → Tile) : (s.writeRows v0 v1 v2 v3 t).ie = s.ie := rfl
@[simp] theorem State.writeRows_run (v0 v1 v2 v3 : VReg) (t : Nat → Tile) : (s.writeRows v0 v1 v2 v3 t).run = s.run := rfl
@[simp] theorem State.writeRows_done (v0 v1 v2 v3 : VReg) (t : Nat → Tile) : (s.writeRows v0 v1 v2 v3 t).done = s.done := rfl
@[simp] theorem State.writeRows_fault (v0 v1 v2 v3 : VReg) (t : Nat → Tile) : (s.writeRows v0 v1 v2 v3 t).fault = s.fault := rfl
@[simp] theorem State.writeRows_cause (v0 v1 v2 v3 : VReg) (t : Nat → Tile) : (s.writeRows v0 v1 v2 v3 t).cause = s.cause := rfl
@[simp] theorem State.writeRows_entry (v0 v1 v2 v3 : VReg) (t : Nat → Tile) : (s.writeRows v0 v1 v2 v3 t).entry = s.entry := rfl
@[simp] theorem State.writeRows_faultPc (v0 v1 v2 v3 : VReg) (t : Nat → Tile) : (s.writeRows v0 v1 v2 v3 t).faultPc = s.faultPc := rfl
@[simp] theorem State.writeRows_faultInfo (v0 v1 v2 v3 : VReg) (t : Nat → Tile) : (s.writeRows v0 v1 v2 v3 t).faultInfo = s.faultInfo := rfl
@[simp] theorem State.writeRows_nts (v0 v1 v2 v3 : VReg) (t : Nat → Tile) : (s.writeRows v0 v1 v2 v3 t).nts = s.nts := rfl
@[simp] theorem State.writeRows_dsz (v0 v1 v2 v3 : VReg) (t : Nat → Tile) : (s.writeRows v0 v1 v2 v3 t).dsz = s.dsz := rfl
@[simp] theorem State.writeRows_src (v0 v1 v2 v3 : VReg) (t : Nat → Tile) : (s.writeRows v0 v1 v2 v3 t).src = s.src := rfl
@[simp] theorem State.writeRows_slen (v0 v1 v2 v3 : VReg) (t : Nat → Tile) : (s.writeRows v0 v1 v2 v3 t).slen = s.slen := rfl
@[simp] theorem State.writeRows_dtab (v0 v1 v2 v3 : VReg) (t : Nat → Tile) : (s.writeRows v0 v1 v2 v3 t).dtab = s.dtab := rfl
@[simp] theorem State.writeRows_dcnt (v0 v1 v2 v3 : VReg) (t : Nat → Tile) : (s.writeRows v0 v1 v2 v3 t).dcnt = s.dcnt := rfl
@[simp] theorem State.writeRows_dtab2 (v0 v1 v2 v3 : VReg) (t : Nat → Tile) : (s.writeRows v0 v1 v2 v3 t).dtab2 = s.dtab2 := rfl
@[simp] theorem State.writeRows_imem (v0 v1 v2 v3 : VReg) (t : Nat → Tile) : (s.writeRows v0 v1 v2 v3 t).imem = s.imem := rfl
@[simp] theorem State.writeRows_dmem (v0 v1 v2 v3 : VReg) (t : Nat → Tile) : (s.writeRows v0 v1 v2 v3 t).dmem = s.dmem := rfl
@[simp] theorem State.writeRows_fillSeed (v0 v1 v2 v3 : VReg) (t : Nat → Tile) : (s.writeRows v0 v1 v2 v3 t).fillSeed = s.fillSeed := rfl
@[simp] theorem State.writeRows_freshSeed (v0 v1 v2 v3 : VReg) (t : Nat → Tile) : (s.writeRows v0 v1 v2 v3 t).freshSeed = s.freshSeed := rfl
@[simp] theorem State.writeRows_turns (v0 v1 v2 v3 : VReg) (t : Nat → Tile) : (s.writeRows v0 v1 v2 v3 t).turns = s.turns := rfl
@[simp] theorem State.writeRows_portData (v0 v1 v2 v3 : VReg) (t : Nat → Tile) : (s.writeRows v0 v1 v2 v3 t).portData = s.portData := rfl

/-! ### writeAllRows -/

@[simp] theorem State.writeAllRows_params (t : Nat → Tile) : (s.writeAllRows t).params = s.params := rfl
@[simp] theorem State.writeAllRows_a (t : Nat → Tile) : (s.writeAllRows t).a = s.a := rfl
@[simp] theorem State.writeAllRows_pc (t : Nat → Tile) : (s.writeAllRows t).pc = s.pc := rfl
@[simp] theorem State.writeAllRows_ie (t : Nat → Tile) : (s.writeAllRows t).ie = s.ie := rfl
@[simp] theorem State.writeAllRows_run (t : Nat → Tile) : (s.writeAllRows t).run = s.run := rfl
@[simp] theorem State.writeAllRows_done (t : Nat → Tile) : (s.writeAllRows t).done = s.done := rfl
@[simp] theorem State.writeAllRows_fault (t : Nat → Tile) : (s.writeAllRows t).fault = s.fault := rfl
@[simp] theorem State.writeAllRows_cause (t : Nat → Tile) : (s.writeAllRows t).cause = s.cause := rfl
@[simp] theorem State.writeAllRows_entry (t : Nat → Tile) : (s.writeAllRows t).entry = s.entry := rfl
@[simp] theorem State.writeAllRows_faultPc (t : Nat → Tile) : (s.writeAllRows t).faultPc = s.faultPc := rfl
@[simp] theorem State.writeAllRows_faultInfo (t : Nat → Tile) : (s.writeAllRows t).faultInfo = s.faultInfo := rfl
@[simp] theorem State.writeAllRows_nts (t : Nat → Tile) : (s.writeAllRows t).nts = s.nts := rfl
@[simp] theorem State.writeAllRows_dsz (t : Nat → Tile) : (s.writeAllRows t).dsz = s.dsz := rfl
@[simp] theorem State.writeAllRows_src (t : Nat → Tile) : (s.writeAllRows t).src = s.src := rfl
@[simp] theorem State.writeAllRows_slen (t : Nat → Tile) : (s.writeAllRows t).slen = s.slen := rfl
@[simp] theorem State.writeAllRows_dtab (t : Nat → Tile) : (s.writeAllRows t).dtab = s.dtab := rfl
@[simp] theorem State.writeAllRows_dcnt (t : Nat → Tile) : (s.writeAllRows t).dcnt = s.dcnt := rfl
@[simp] theorem State.writeAllRows_dtab2 (t : Nat → Tile) : (s.writeAllRows t).dtab2 = s.dtab2 := rfl
@[simp] theorem State.writeAllRows_imem (t : Nat → Tile) : (s.writeAllRows t).imem = s.imem := rfl
@[simp] theorem State.writeAllRows_dmem (t : Nat → Tile) : (s.writeAllRows t).dmem = s.dmem := rfl
@[simp] theorem State.writeAllRows_fillSeed (t : Nat → Tile) : (s.writeAllRows t).fillSeed = s.fillSeed := rfl
@[simp] theorem State.writeAllRows_freshSeed (t : Nat → Tile) : (s.writeAllRows t).freshSeed = s.freshSeed := rfl
@[simp] theorem State.writeAllRows_turns (t : Nat → Tile) : (s.writeAllRows t).turns = s.turns := rfl
@[simp] theorem State.writeAllRows_portData (t : Nat → Tile) : (s.writeAllRows t).portData = s.portData := rfl

/-! ### csrWrite: a CSR that is not written this way keeps its value -/

@[simp] theorem State.csrWrite_params (c : Csr) (x : Word) : (s.csrWrite c x).params = s.params := by cases c <;> rfl
@[simp] theorem State.csrWrite_a (c : Csr) (x : Word) : (s.csrWrite c x).a = s.a := by cases c <;> rfl
@[simp] theorem State.csrWrite_v (c : Csr) (x : Word) : (s.csrWrite c x).v = s.v := by cases c <;> rfl
@[simp] theorem State.csrWrite_pc (c : Csr) (x : Word) : (s.csrWrite c x).pc = s.pc := by cases c <;> rfl
@[simp] theorem State.csrWrite_ie (c : Csr) (x : Word) : (s.csrWrite c x).ie = s.ie := by cases c <;> rfl
@[simp] theorem State.csrWrite_run (c : Csr) (x : Word) : (s.csrWrite c x).run = s.run := by cases c <;> rfl
@[simp] theorem State.csrWrite_done (c : Csr) (x : Word) : (s.csrWrite c x).done = s.done := by cases c <;> rfl
@[simp] theorem State.csrWrite_fault (c : Csr) (x : Word) : (s.csrWrite c x).fault = s.fault := by cases c <;> rfl
@[simp] theorem State.csrWrite_cause (c : Csr) (x : Word) : (s.csrWrite c x).cause = s.cause := by cases c <;> rfl
@[simp] theorem State.csrWrite_entry (c : Csr) (x : Word) : (s.csrWrite c x).entry = s.entry := by cases c <;> rfl
@[simp] theorem State.csrWrite_faultPc (c : Csr) (x : Word) : (s.csrWrite c x).faultPc = s.faultPc := by cases c <;> rfl
@[simp] theorem State.csrWrite_faultInfo (c : Csr) (x : Word) : (s.csrWrite c x).faultInfo = s.faultInfo := by cases c <;> rfl
@[simp] theorem State.csrWrite_nts (c : Csr) (x : Word) : (s.csrWrite c x).nts = if c = .nts then x else s.nts := by
  cases c <;> rfl
@[simp] theorem State.csrWrite_dsz (c : Csr) (x : Word) : (s.csrWrite c x).dsz = if c = .dsz then x else s.dsz := by
  cases c <;> rfl
@[simp] theorem State.csrWrite_src (c : Csr) (x : Word) : (s.csrWrite c x).src = if c = .src then x else s.src := by
  cases c <;> rfl
@[simp] theorem State.csrWrite_slen (c : Csr) (x : Word) : (s.csrWrite c x).slen = if c = .slen then x else s.slen := by
  cases c <;> rfl
@[simp] theorem State.csrWrite_dtab (c : Csr) (x : Word) : (s.csrWrite c x).dtab = if c = .dtab then x else s.dtab := by
  cases c <;> rfl
@[simp] theorem State.csrWrite_dcnt (c : Csr) (x : Word) : (s.csrWrite c x).dcnt = if c = .dcnt then x else s.dcnt := by
  cases c <;> rfl
@[simp] theorem State.csrWrite_dtab2 (c : Csr) (x : Word) : (s.csrWrite c x).dtab2 = if c = .dtab2 then x else s.dtab2 := by
  cases c <;> rfl
@[simp] theorem State.csrWrite_imem (c : Csr) (x : Word) : (s.csrWrite c x).imem = s.imem := by cases c <;> rfl
@[simp] theorem State.csrWrite_dmem (c : Csr) (x : Word) : (s.csrWrite c x).dmem = s.dmem := by cases c <;> rfl
@[simp] theorem State.csrWrite_fillSeed (c : Csr) (x : Word) : (s.csrWrite c x).fillSeed = s.fillSeed := by cases c <;> rfl
@[simp] theorem State.csrWrite_freshSeed (c : Csr) (x : Word) : (s.csrWrite c x).freshSeed = s.freshSeed := by cases c <;> rfl
@[simp] theorem State.csrWrite_turns (c : Csr) (x : Word) : (s.csrWrite c x).turns = s.turns := by cases c <;> rfl
@[simp] theorem State.csrWrite_portData (c : Csr) (x : Word) : (s.csrWrite c x).portData = s.portData := by cases c <;> rfl

/-! ### resetRegisters: what it keeps; the rest is State.reset's -/

@[simp] theorem State.resetRegisters_params : s.resetRegisters.params = s.params := rfl
@[simp] theorem State.resetRegisters_a : s.resetRegisters.a = State.reset.a := rfl
@[simp] theorem State.resetRegisters_v : s.resetRegisters.v = State.reset.v := rfl
@[simp] theorem State.resetRegisters_pc : s.resetRegisters.pc = State.reset.pc := rfl
@[simp] theorem State.resetRegisters_ie : s.resetRegisters.ie = State.reset.ie := rfl
@[simp] theorem State.resetRegisters_run : s.resetRegisters.run = State.reset.run := rfl
@[simp] theorem State.resetRegisters_done : s.resetRegisters.done = State.reset.done := rfl
@[simp] theorem State.resetRegisters_fault : s.resetRegisters.fault = State.reset.fault := rfl
@[simp] theorem State.resetRegisters_cause : s.resetRegisters.cause = State.reset.cause := rfl
@[simp] theorem State.resetRegisters_entry : s.resetRegisters.entry = State.reset.entry := rfl
@[simp] theorem State.resetRegisters_faultPc : s.resetRegisters.faultPc = State.reset.faultPc := rfl
@[simp] theorem State.resetRegisters_faultInfo : s.resetRegisters.faultInfo = State.reset.faultInfo := rfl
@[simp] theorem State.resetRegisters_nts : s.resetRegisters.nts = State.reset.nts := rfl
@[simp] theorem State.resetRegisters_dsz : s.resetRegisters.dsz = State.reset.dsz := rfl
@[simp] theorem State.resetRegisters_src : s.resetRegisters.src = State.reset.src := rfl
@[simp] theorem State.resetRegisters_slen : s.resetRegisters.slen = State.reset.slen := rfl
@[simp] theorem State.resetRegisters_dtab : s.resetRegisters.dtab = State.reset.dtab := rfl
@[simp] theorem State.resetRegisters_dcnt : s.resetRegisters.dcnt = State.reset.dcnt := rfl
@[simp] theorem State.resetRegisters_dtab2 : s.resetRegisters.dtab2 = State.reset.dtab2 := rfl
@[simp] theorem State.resetRegisters_imem : s.resetRegisters.imem = s.imem := rfl
@[simp] theorem State.resetRegisters_dmem : s.resetRegisters.dmem = s.dmem := rfl
@[simp] theorem State.resetRegisters_fillSeed : s.resetRegisters.fillSeed = s.fillSeed := rfl
@[simp] theorem State.resetRegisters_freshSeed : s.resetRegisters.freshSeed = s.freshSeed := rfl
@[simp] theorem State.resetRegisters_turns : s.resetRegisters.turns = s.turns := rfl
@[simp] theorem State.resetRegisters_portData : s.resetRegisters.portData = s.portData := rfl

end Sys2Proof.Machine
end

