-- ==== Sys2Proof/Laws/Tiles.lean ====
section
/-!
SUPPORT. The views of a tile: reading back what a builder built, and that a tile is its bytes and its doublewords.
-/

namespace Sys2Proof

theorem Tile.byte_ofBytes (f : Nat → Byte) (k : Nat) : (Tile.ofBytes f).byte k = if k < 32 then f k else 0 := by
  simp only [Tile.byte, Tile.ofBytes, Vector.getElem?_ofFn]
  split <;> rfl

@[simp] theorem Tile.byte_ofBytes_of_lt (f : Nat → Byte) {k : Nat} (h : k < 32) : (Tile.ofBytes f).byte k = f k := by
  rw [Tile.byte_ofBytes, if_pos h]

/-- A tile is its 32 bytes. -/
theorem Tile.ext_byte (s t : Tile) (h : ∀ k, k < 32 → s.byte k = t.byte k) : s = t := by
  apply Vector.ext
  intro k hk
  have := h k hk
  simpa [Tile.byte, hk] using this

theorem Tile.ofBytes_congr (f g : Nat → Byte) (h : ∀ k, k < 32 → f k = g k) : Tile.ofBytes f = Tile.ofBytes g := by
  apply Tile.ext_byte
  intro k hk
  rw [Tile.byte_ofBytes_of_lt f hk, Tile.byte_ofBytes_of_lt g hk, h k hk]

/-! ### Words and their bytes -/

theorem append_toNat {n m : Nat} (x : BitVec n) (y : BitVec m) : (x ++ y).toNat = x.toNat * 2 ^ m + y.toNat := by
  rw [BitVec.toNat_append, ← Nat.shiftLeft_add_eq_or_of_lt y.isLt, Nat.shiftLeft_eq]

theorem wordOfBytes_toNat (b0 b1 b2 b3 : Byte) :
    (wordOfBytes b0 b1 b2 b3).toNat = b0.toNat + 2 ^ 8 * b1.toNat + 2 ^ 16 * b2.toNat + 2 ^ 24 * b3.toNat := by
  simp only [wordOfBytes, append_toNat]
  omega

theorem wordByte_toNat (x : Word) (k : Nat) : (wordByte x k).toNat = x.toNat / 2 ^ (8 * k) % 2 ^ 8 := by
  simp [wordByte, BitVec.extractLsb'_toNat, Nat.shiftRight_eq_div_pow]

@[simp] theorem wordByte_wordOfBytes_zero (b0 b1 b2 b3 : Byte) : wordByte (wordOfBytes b0 b1 b2 b3) 0 = b0 := by
  apply BitVec.eq_of_toNat_eq
  rw [wordByte_toNat, wordOfBytes_toNat]
  omega

@[simp] theorem wordByte_wordOfBytes_one (b0 b1 b2 b3 : Byte) : wordByte (wordOfBytes b0 b1 b2 b3) 1 = b1 := by
  apply BitVec.eq_of_toNat_eq
  rw [wordByte_toNat, wordOfBytes_toNat]
  omega

@[simp] theorem wordByte_wordOfBytes_two (b0 b1 b2 b3 : Byte) : wordByte (wordOfBytes b0 b1 b2 b3) 2 = b2 := by
  apply BitVec.eq_of_toNat_eq
  rw [wordByte_toNat, wordOfBytes_toNat]
  omega

@[simp] theorem wordByte_wordOfBytes_three (b0 b1 b2 b3 : Byte) : wordByte (wordOfBytes b0 b1 b2 b3) 3 = b3 := by
  apply BitVec.eq_of_toNat_eq
  rw [wordByte_toNat, wordOfBytes_toNat]
  omega

theorem wordOfBytes_wordByte (x : Word) :
    wordOfBytes (wordByte x 0) (wordByte x 1) (wordByte x 2) (wordByte x 3) = x := by
  apply BitVec.eq_of_toNat_eq
  simp only [wordOfBytes_toNat, wordByte_toNat]
  omega

/-! ### Doublewords -/

/-- Byte b of doubleword j of a tile is byte `4j + b` of the tile (R51). -/
theorem Tile.wordByte_dword (t : Tile) (j b : Nat) (hb : b < 4) : wordByte (t.dword j) b = t.byte (4 * j + b) := by
  obtain rfl | rfl | rfl | rfl : b = 0 ∨ b = 1 ∨ b = 2 ∨ b = 3 := by omega
  all_goals simp [Tile.dword]

theorem Tile.byte_ofDwords (f : Nat → Word) (k : Nat) (h : k < 32) :
    (Tile.ofDwords f).byte k = wordByte (f (k / 4)) (k % 4) := by
  rw [Tile.ofDwords, Tile.byte_ofBytes_of_lt _ h]

@[simp] theorem Tile.dword_ofDwords (f : Nat → Word) (j : Nat) (h : j < 8) : (Tile.ofDwords f).dword j = f j := by
  have e : ∀ b, b < 4 → (Tile.ofDwords f).byte (4 * j + b) = wordByte (f j) b := by
    intro b hb
    rw [Tile.byte_ofDwords _ _ (by omega)]
    congr 2 <;> omega
  have e0 := e 0 (by omega)
  rw [Nat.add_zero] at e0
  rw [Tile.dword, e0, e 1 (by omega), e 2 (by omega), e 3 (by omega), wordOfBytes_wordByte]

/-- A tile is its 8 doublewords. -/
theorem Tile.ext_dword (s t : Tile) (h : ∀ j, j < 8 → s.dword j = t.dword j) : s = t := by
  apply Tile.ext_byte
  intro k hk
  have := congrArg (fun x => wordByte x (k % 4)) (h (k / 4) (by omega))
  simp only [Tile.wordByte_dword _ _ _ (Nat.mod_lt k (by omega))] at this
  rwa [Nat.div_add_mod] at this

/-! ### Width forms -/

/-- Half 0 of a width form is the operation on half 0 (R20, R98). -/
theorem Tile.byte_byHalves_low (w : Width) (f : Nat → Nat → Byte) (k : Nat) (h : k < 16) :
    (Tile.byHalves w f).byte k = f 0 k := by
  rw [Tile.byHalves, Tile.byte_ofBytes_of_lt _ (by omega), if_pos h]

/-- Half 1 of the 32-byte form is the operation on half 1 (R20, R98). -/
theorem Tile.byte_byHalves_high (f : Nat → Nat → Byte) (k : Nat) (h : k < 16) :
    (Tile.byHalves .y f).byte (16 + k) = f 1 k := by
  rw [Tile.byHalves, Tile.byte_ofBytes_of_lt _ (by omega), if_neg (by omega)]
  simp

/-- Half 1 of the 16-byte form is zero (R20, R98). -/
theorem Tile.byte_byHalves_zero (f : Nat → Nat → Byte) (k : Nat) (h : 16 ≤ k) :
    (Tile.byHalves .x f).byte k = 0 := by
  rw [Tile.byHalves, Tile.byte_ofBytes]
  simp [Nat.not_lt.2 h]

theorem Tile.dword_byHalvesD_low (w : Width) (f : Nat → Nat → Word) (j : Nat) (h : j < 4) :
    (Tile.byHalvesD w f).dword j = f 0 j := by
  rw [Tile.byHalvesD, Tile.dword_ofDwords _ _ (by omega), if_pos h]

theorem Tile.dword_byHalvesD_high (f : Nat → Nat → Word) (j : Nat) (h : j < 4) :
    (Tile.byHalvesD .y f).dword (4 + j) = f 1 j := by
  rw [Tile.byHalvesD, Tile.dword_ofDwords _ _ (by omega), if_neg (by omega)]
  simp

theorem Tile.dword_byHalvesD_zero (f : Nat → Nat → Word) (j : Nat) (h : 4 ≤ j) (h8 : j < 8) :
    (Tile.byHalvesD .x f).dword j = 0 := by
  rw [Tile.byHalvesD, Tile.dword_ofDwords _ _ h8, if_neg (by omega)]

end Sys2Proof
end

