-- ==== Sys2Proof/Laws/Ops.lean ====
section
/-!
SUPPORT. What each shared operation over State can do, said once: registers, DMEM, IMEM, checks, faults and fetch.
-/

namespace Sys2Proof.Machine

variable (s : State)

/-! ### Registers read back -/

@[simp] theorem State.readA_zero : s.readA 0 = 0 := rfl

/-- Reading a scalar register after a write: A0 still reads 0 (R17). -/
theorem State.readA_writeA (r q : AReg) (x : Word) :
    (s.writeA r x).readA q = if q = r ∧ r ≠ 0 then x else s.readA q := by
  unfold State.readA
  rw [State.writeA_a]
  by_cases hq : q = 0
  · subst hq
    by_cases hr : (0 : AReg) = r
    · simp [← hr]
    · simp [hr]
  · by_cases hr : r = 0
    · simp [hr, hq]
    · by_cases hqr : q = r
      · subst hqr; simp [hr]
      · have : (r : Nat) ≠ q := fun h => hqr (Fin.ext h.symm)
        simp [hr, hq, hqr, this]

/-- Reading a tile register after a write. -/
theorem State.readV_writeV (r q : VReg) (t : Tile) : (s.writeV r t).readV q = if q = r then t else s.readV q := by
  unfold State.readV
  rw [State.writeV_v]
  by_cases hqr : q = r
  · subst hqr; simp
  · have : (r : Nat) ≠ q := fun h => hqr (Fin.ext h.symm)
    simp [hqr, this]

/-! ### Reads that an update does not touch -/

@[simp] theorem State.readV_writeA (r : AReg) (x : Word) (q : VReg) : (s.writeA r x).readV q = s.readV q := rfl
@[simp] theorem State.byteAt_writeA (r : AReg) (x : Word) (q : Nat) : (s.writeA r x).byteAt q = s.byteAt q := rfl
@[simp] theorem State.imemWord_writeA (r : AReg) (x : Word) (q : Nat) : (s.writeA r x).imemWord q = s.imemWord q := rfl
@[simp] theorem State.readA_writeV (r : VReg) (t : Tile) (q : AReg) : (s.writeV r t).readA q = s.readA q := rfl
@[simp] theorem State.byteAt_writeV (r : VReg) (t : Tile) (q : Nat) : (s.writeV r t).byteAt q = s.byteAt q := rfl
@[simp] theorem State.imemWord_writeV (r : VReg) (t : Tile) (q : Nat) : (s.writeV r t).imemWord q = s.imemWord q := rfl
@[simp] theorem State.readA_setPc (p : Word) (q : AReg) : (s.setPc p).readA q = s.readA q := rfl
@[simp] theorem State.readV_setPc (p : Word) (q : VReg) : (s.setPc p).readV q = s.readV q := rfl
@[simp] theorem State.byteAt_setPc (p : Word) (q : Nat) : (s.setPc p).byteAt q = s.byteAt q := rfl
@[simp] theorem State.imemWord_setPc (p : Word) (q : Nat) : (s.setPc p).imemWord q = s.imemWord q := rfl
@[simp] theorem State.readA_advance (q : AReg) : s.advance.readA q = s.readA q := rfl
@[simp] theorem State.readV_advance (q : VReg) : s.advance.readV q = s.readV q := rfl
@[simp] theorem State.byteAt_advance (q : Nat) : s.advance.byteAt q = s.byteAt q := rfl
@[simp] theorem State.imemWord_advance (q : Nat) : s.advance.imemWord q = s.imemWord q := rfl
@[simp] theorem State.readA_storeBytes (a : Nat) (bs : List Byte) (q : AReg) : (s.storeBytes a bs).readA q = s.readA q := rfl
@[simp] theorem State.readV_storeBytes (a : Nat) (bs : List Byte) (q : VReg) : (s.storeBytes a bs).readV q = s.readV q := rfl
@[simp] theorem State.imemWord_storeBytes (a : Nat) (bs : List Byte) (q : Nat) : (s.storeBytes a bs).imemWord q = s.imemWord q := rfl
@[simp] theorem State.readA_raise (t : Trap) (q : AReg) : (s.raise t).readA q = s.readA q := rfl
@[simp] theorem State.readV_raise (t : Trap) (q : VReg) : (s.raise t).readV q = s.readV q := rfl
@[simp] theorem State.byteAt_raise (t : Trap) (q : Nat) : (s.raise t).byteAt q = s.byteAt q := rfl
@[simp] theorem State.imemWord_raise (t : Trap) (q : Nat) : (s.raise t).imemWord q = s.imemWord q := rfl
@[simp] theorem State.readA_endRun (q : AReg) : s.endRun.readA q = s.readA q := rfl
@[simp] theorem State.readV_endRun (q : VReg) : s.endRun.readV q = s.readV q := rfl
@[simp] theorem State.byteAt_endRun (q : Nat) : s.endRun.byteAt q = s.byteAt q := rfl
@[simp] theorem State.imemWord_endRun (q : Nat) : s.endRun.imemWord q = s.imemWord q := rfl
@[simp] theorem State.readA_start (q : AReg) : s.start.readA q = s.readA q := rfl
@[simp] theorem State.readV_start (q : VReg) : s.start.readV q = s.readV q := rfl
@[simp] theorem State.byteAt_start (q : Nat) : s.start.byteAt q = s.byteAt q := rfl
@[simp] theorem State.imemWord_start (q : Nat) : s.start.imemWord q = s.imemWord q := rfl

/-! ### What a field decides -/

theorem State.readA_congr {s t : State} (h : t.a = s.a) (q : AReg) : t.readA q = s.readA q := by
  unfold State.readA; rw [h]

theorem State.readV_congr {s t : State} (h : t.v = s.v) (q : VReg) : t.readV q = s.readV q := by
  unfold State.readV; rw [h]

theorem State.byteAt_congr {s t : State} (h : t.dmem = s.dmem) (hf : t.fillSeed = s.fillSeed) (x : Nat) :
    t.byteAt x = s.byteAt x := by
  unfold State.byteAt; rw [h, hf]

theorem State.imemWord_congr {s t : State} (h : t.imem = s.imem) (hf : t.fillSeed = s.fillSeed) (k : Nat) :
    t.imemWord k = s.imemWord k := by
  unfold State.imemWord; rw [h, hf]

/-! ### Data memory -/

/-- Reading a byte after a store: the stored byte in the block, the old byte everywhere else (R11, R57). -/
theorem State.byteAt_storeBytes (a : Nat) (bs : List Byte) (x : Nat) :
    (s.storeBytes a bs).byteAt x = if a ≤ x ∧ x < a + bs.length then bs.getD (x - a) 0 else s.byteAt x := by
  unfold State.byteAt
  rw [State.storeBytes_dmem, State.storeBytes_fillSeed, Memory.lookup_write]
  by_cases h : a ≤ x ∧ x < a + bs.length
  · have hl : x - a < bs.length := by omega
    simp [h, hl, List.getD_eq_getElem?_getD]
  · simp [h]

@[simp] theorem State.bytesAt_length (a n : Nat) : (s.bytesAt a n).length = n := by simp [State.bytesAt]

theorem State.bytesAt_getD (a n k : Nat) (h : k < n) : (s.bytesAt a n).getD k 0 = s.byteAt (a + k) := by
  simp [State.bytesAt, List.getD_eq_getElem?_getD, h]

/-- Two blocks are equal lists exactly where they are equal byte by byte. -/
theorem State.bytesAt_eq_iff (a b n : Nat) :
    s.bytesAt a n = s.bytesAt b n ↔ ∀ k, k < n → s.byteAt (a + k) = s.byteAt (b + k) := by
  simp [State.bytesAt]

@[simp] theorem wordBytes_length (x : Word) : (wordBytes x).length = 4 := rfl

theorem wordBytes_getD (x : Word) (k : Nat) (h : k < 4) : (wordBytes x).getD k 0 = wordByte x k := by
  obtain rfl | rfl | rfl | rfl : k = 0 ∨ k = 1 ∨ k = 2 ∨ k = 3 := by omega
  all_goals rfl

/-! ### The checks of an access -/

/-- An aligned access in range passes both checks (R48, R52). -/
theorem State.checkAccess_ok (ea : Word) (n : Nat) (ha : ea.toNat % n = 0) (hr : ea.toNat + n ≤ s.params.dmemBytes) :
    s.checkAccess ea n = .ok ea.toNat := by
  simp [State.checkAccess, ha, Nat.not_lt.2 hr]

/-- A misaligned access raises MISALIGNED, in range or not (R52, R53). -/
theorem State.checkAccess_misaligned (ea : Word) (n : Nat) (ha : ea.toNat % n ≠ 0) :
    s.checkAccess ea n = .error ⟨.misaligned, ea⟩ := by
  simp [State.checkAccess, ha]

/-- An aligned access out of range raises MEM_RANGE (R54). -/
theorem State.checkAccess_range (ea : Word) (n : Nat) (ha : ea.toNat % n = 0)
    (hr : s.params.dmemBytes < ea.toNat + n) : s.checkAccess ea n = .error ⟨.memRange, ea⟩ := by
  simp [State.checkAccess, ha, hr]

/-- Everything an access check can answer. -/
theorem State.checkAccess_cases (ea : Word) (n : Nat) :
    (s.checkAccess ea n = .ok ea.toNat ∧ ea.toNat % n = 0 ∧ ea.toNat + n ≤ s.params.dmemBytes) ∨
    (s.checkAccess ea n = .error ⟨.misaligned, ea⟩ ∧ ea.toNat % n ≠ 0) ∨
    (s.checkAccess ea n = .error ⟨.memRange, ea⟩ ∧ ea.toNat % n = 0 ∧ s.params.dmemBytes < ea.toNat + n) := by
  by_cases ha : ea.toNat % n = 0
  · by_cases hr : ea.toNat + n ≤ s.params.dmemBytes
    · exact .inl ⟨s.checkAccess_ok ea n ha hr, ha, hr⟩
    · exact .inr (.inr ⟨s.checkAccess_range ea n ha (Nat.not_le.1 hr), ha, Nat.not_le.1 hr⟩)
  · exact .inr (.inl ⟨s.checkAccess_misaligned ea n ha, ha⟩)

/-! ### Going on or taking a fault -/

@[simp] theorem State.orRaise_ok {α : Type} (x : α) (k : α → State) : s.orRaise (.ok x) k = .next (k x) := rfl

@[simp] theorem State.orRaise_error {α : Type} (t : Trap) (k : α → State) :
    s.orRaise (.error t) k = .next (s.raise t) := rfl

theorem State.ifLegal_of_wf (i : Instr) (r : Result) (h : WellFormed i = true) : s.ifLegal i r = r := by
  simp [State.ifLegal, h]

theorem State.ifLegal_of_not_wf (i : Instr) (r : Result) (h : WellFormed i = false) :
    s.ifLegal i r = .next (s.raise ⟨.illegalInstruction, encode i⟩) := by
  simp [State.ifLegal, h]

/-- A chain of checks passes exactly where its first check and the rest of the chain pass. -/
theorem check_eq_none {α : Type} {p : Prop} [Decidable p] (t : α) (r : Option α) :
    (if p then some t else r) = none ↔ ¬ p ∧ r = none := by
  by_cases h : p <;> simp [h]

/-! ### Fetch -/

theorem State.fetch_ok (i : Instr) (hr : s.pc.toNat + 4 ≤ 4 * s.params.imemWords)
    (hd : decode (s.imemWord (s.pc.toNat / 4)) = .ok i) : s.fetch = .ok i := by
  simp [State.fetch, Nat.not_lt.2 hr, hd]

theorem State.fetch_range (hr : 4 * s.params.imemWords < s.pc.toNat + 4) :
    s.fetch = .error ⟨.fetchRange, s.pc⟩ := by
  simp [State.fetch, hr]

theorem State.fetch_illegal (e : DecodeError) (hr : s.pc.toNat + 4 ≤ 4 * s.params.imemWords)
    (hd : decode (s.imemWord (s.pc.toNat / 4)) = .error e) :
    s.fetch = .error ⟨.illegalInstruction, s.imemWord (s.pc.toNat / 4)⟩ := by
  simp [State.fetch, Nat.not_lt.2 hr, hd]

/-- Only a well-formed instruction is ever decoded (R79). -/
theorem wellFormed_of_decode (w : Word) (i : Instr) (h : decode w = .ok i) : WellFormed i = true := by
  unfold decode at h
  split at h
  · split at h
    · cases h; assumption
    · cases h
  · cases h

/-- Only a well-formed instruction is ever fetched (R79). -/
theorem State.wellFormed_of_fetch (i : Instr) (h : s.fetch = .ok i) : WellFormed i = true := by
  unfold State.fetch at h
  split at h
  · cases h
  · split at h
    · rename_i hd
      cases h
      exact wellFormed_of_decode _ _ hd
    · cases h

/-! ### The step -/

theorem step_of_no_turn (h : s.turns = []) : step s = sequencerStep s := by
  simp [step, h]

theorem step_of_sequencer_turn (rest : List Turn) (h : s.turns = .sequencer :: rest) :
    step s = sequencerStep { s with turns := rest } := by
  simp [step, h]

theorem step_of_host_turn (a : HostAction) (rest : List Turn) (h : s.turns = .host a :: rest) :
    step s = .next (State.hostTurn { s with turns := rest } a) := by
  simp [step, h]

theorem sequencerStep_of_fetch (i : Instr) (hr : s.run = true) (hf : s.fetch = .ok i) :
    sequencerStep s = exec i s := by
  simp [sequencerStep, hr, hf]

theorem sequencerStep_of_trap (t : Trap) (hr : s.run = true) (hf : s.fetch = .error t) :
    sequencerStep s = .next (s.raise t) := by
  simp [sequencerStep, hr, hf]

/-- Everything the sequencer's turn can do. -/
theorem sequencerStep_cases :
    (s.run = false ∧ sequencerStep s = .next s) ∨
    (s.run = true ∧ ∃ i, s.fetch = .ok i ∧ sequencerStep s = exec i s) ∨
    (s.run = true ∧ ∃ t, s.fetch = .error t ∧ sequencerStep s = .next (s.raise t)) := by
  unfold sequencerStep
  cases hr : s.run
  · exact .inl ⟨rfl, by simp⟩
  · cases hf : s.fetch with
    | ok i => exact .inr (.inl ⟨rfl, i, rfl, by simp⟩)
    | error t => exact .inr (.inr ⟨rfl, t, rfl, by simp⟩)

end Sys2Proof.Machine
end

