-- ==== Sys2Proof/Laws/Demux.lean ====
section
/-!
SUPPORT. What DMX's shared operations can do: its table, its entry checks, the overlap test and the bytes it writes.
-/

namespace Sys2Proof.Machine

variable (s : State)

/-! ### The table -/

@[simp] theorem State.dmxTable_length : s.dmxTable.length = s.nts.toNat := by simp [State.dmxTable]

theorem State.dmxTable_getElem (c : Nat) (h : c < s.dmxTable.length) :
    s.dmxTable[c] = s.tableEntry s.dtab.toNat c := by simp [State.dmxTable]

theorem State.mem_dmxTable (e : DestEntry) :
    e ∈ s.dmxTable ↔ ∃ c, c < s.nts.toNat ∧ s.tableEntry s.dtab.toNat c = e := by simp [State.dmxTable]

/-! ### The checks -/

theorem State.dmxRows_eq (mode : DmxMode) : s.dmxRows mode = expectedRows s mode := by
  cases mode <;> simp [State.dmxRows, expectedRows]

theorem State.dmxShapeWrong_false_iff (mode : DmxMode) : s.dmxShapeWrong mode = false ↔ ShapeFits mode s := by
  cases mode <;> simp [State.dmxShapeWrong, ShapeFits]

theorem DmxMode.rowsWrong_false_iff (mode : DmxMode) : mode.rowsWrong s.nts.toNat = false ↔ RowCountFits mode s := by
  cases mode <;> simp [DmxMode.rowsWrong, DmxMode.tileRows, RowCountFits]

theorem DmxMode.tileWrong_false_iff (w : Width) (mode : DmxMode) (n : Nat) :
    mode.tileWrong w n = false ↔ TileFits w mode n := by
  cases mode <;> simp [DmxMode.tileWrong, DmxMode.tileRows, TileFits, IsTileMode]

theorem State.nts_eq_zero_iff : s.nts = 0 ↔ s.nts.toNat = 0 := by
  constructor
  · intro h; simp [h]
  · intro h; exact BitVec.eq_of_toNat_eq (by simpa using h)

/-- The CSR checks all pass exactly where R88 checks 1 to 7 say so. -/
theorem State.dmxShapeTrap_none_iff (w : Width) (mode : DmxMode) :
    s.dmxShapeTrap w mode = none ↔ DmxShapeOk w mode s := by
  unfold State.dmxShapeTrap DmxShapeOk
  simp only [check_eq_none, Bool.not_eq_true, State.dmxShapeWrong_false_iff, DmxMode.rowsWrong_false_iff,
    DmxMode.tileWrong_false_iff, State.nts_eq_zero_iff]
  simp

/-- The length check passes exactly where every length is ROWS (R88 check 9). -/
theorem lengthTrap_none_iff (rows c : Nat) (es : List DestEntry) :
    lengthTrap rows c es = none ↔ ∀ e ∈ es, e.len.toNat = rows := by
  induction es generalizing c with
  | nil => simp [lengthTrap]
  | cons e es ih =>
    by_cases h : e.len.toNat = rows <;> simp [lengthTrap, h, ih]

/-- The length check reports the first channel that fails it (R88 check 9). -/
theorem lengthTrap_first (rows c i : Nat) (es : List DestEntry) (hi : i < es.length)
    (hbad : es[i].len.toNat ≠ rows) (hfirst : ∀ j, (h : j < i) → (es[j]'(by omega)).len.toNat = rows) :
    lengthTrap rows c es = some ⟨.preDlen, BitVec.ofNat 32 (c + i)⟩ := by
  induction es generalizing c i with
  | nil => simp at hi
  | cons e es ih =>
    cases i with
    | zero =>
      have : e.len.toNat ≠ rows := hbad
      simp [lengthTrap, this]
    | succ i =>
      have h0 : e.len.toNat = rows := hfirst 0 (by omega)
      rw [lengthTrap, if_neg (by simp [h0])]
      rw [ih (c + 1) i (by simpa using hi) (by simpa using hbad) fun j hj => by
        simpa using hfirst (j + 1) (by omega)]
      congr 3
      omega

theorem State.alignTrap_none_iff (w : Width) (mode : DmxMode) (es : List DestEntry) :
    s.alignTrap w mode es = none ↔
      TileFits w mode s.src.toNat ∧ ∀ e ∈ es, TileFits w mode e.addr.toNat := by
  unfold State.alignTrap
  simp only [check_eq_none, Bool.not_eq_true, DmxMode.tileWrong_false_iff, Option.map_eq_none_iff,
    List.find?_eq_none]

theorem State.rangeTrap_none_iff (rows : Nat) (es : List DestEntry) :
    s.rangeTrap rows es = none ↔
      (0 < s.slen.toNat → s.src.toNat + s.slen.toNat ≤ s.params.dmemBytes) ∧
      ∀ e ∈ es, 0 < rows → e.addr.toNat + rows ≤ s.params.dmemBytes := by
  unfold State.rangeTrap
  simp only [check_eq_none]
  simp

/-- What holds of every entry of the table holds of every channel. -/
theorem State.forall_dmxTable (p : DestEntry → Prop) :
    (∀ e ∈ s.dmxTable, p e) ↔ ∀ c, c < s.nts.toNat → p (s.tableEntry s.dtab.toNat c) := by
  simp [State.mem_dmxTable]

/-- The entry checks all pass exactly where R88 says so. -/
theorem State.dmxTrap_none_iff (w : Width) (mode : DmxMode) : s.dmxTrap w mode = none ↔ DmxReady w mode s := by
  unfold State.dmxTrap DmxReady
  simp only [Option.orElse_eq_orElse, Option.orElse_eq_or, Option.or_eq_none_iff, State.dmxShapeTrap_none_iff,
    lengthTrap_none_iff, State.alignTrap_none_iff, State.rangeTrap_none_iff, State.forall_dmxTable, State.dmxRows_eq]
  rfl

/-! ### The overlap test -/

theorem within_iff (base n x : Nat) : within base n x = true ↔ base ≤ x ∧ x < base + n := by
  simp [within]

theorem inOtherBuffer_iff (rows c x k : Nat) (es : List DestEntry) :
    inOtherBuffer rows c x k es = true ↔
      ∃ i, ∃ h : i < es.length, k + i ≠ c ∧ es[i].addr.toNat ≤ x ∧ x < es[i].addr.toNat + rows := by
  induction es generalizing k with
  | nil => simp [inOtherBuffer]
  | cons e es ih =>
    simp only [inOtherBuffer, Bool.or_eq_true, Bool.and_eq_true, decide_eq_true_eq, within_iff, ih]
    constructor
    · rintro (⟨h1, h2⟩ | ⟨i, h, h1, h2⟩)
      · exact ⟨0, by simp, by simpa using h1, by simpa using h2⟩
      · exact ⟨i + 1, by simpa using h, by omega, by simpa using h2⟩
    · rintro ⟨i, h, h1, h2⟩
      cases i with
      | zero => exact .inl ⟨by simpa using h1, by simpa using h2⟩
      | succ i => exact .inr ⟨i, by simpa using h, by omega, by simpa using h2⟩

/-- The overlap test fails exactly where the address is clear (R89). -/
theorem State.dmxOverlap_false_iff (rows c x : Nat) : s.dmxOverlap rows c x = false ↔ Clear s rows c x := by
  rw [← Bool.not_eq_true]
  unfold State.dmxOverlap Clear InDest destAddr
  simp only [Bool.or_eq_true, within_iff, inOtherBuffer_iff, not_or, and_assoc]
  refine and_congr_right' (and_congr_right' ?_)
  constructor
  · intro h d hd hdc hx
    exact h ⟨d, by simpa using hd, by omega, by rw [State.dmxTable_getElem]; exact hx⟩
  · rintro h ⟨i, hi, hic, hx⟩
    rw [State.dmxTable_getElem] at hx
    exact h i (by simpa using hi) (by omega) hx

/-! ### The bytes written -/

/-- DMX's writes change DMEM alone. -/
theorem State.dmxWrite_only_dmem (rows c : Nat) (es : List DestEntry) (t : State) :
    ∃ m, s.dmxWrite rows c es t = { t with dmem := m } := by
  induction es generalizing c t with
  | nil => exact ⟨t.dmem, rfl⟩
  | cons e es ih =>
    obtain ⟨m, h⟩ := ih (c + 1) (t.storeBytes e.addr.toNat ((List.range rows).map (s.dmxByte rows c e.addr.toNat)))
    exact ⟨m, by rw [State.dmxWrite, h]; rfl⟩

/-- An address in no buffer of the table keeps its byte (R91). -/
theorem State.dmxWrite_byteAt_outside (rows c : Nat) (es : List DestEntry) (t : State) (x : Nat)
    (h : ∀ e ∈ es, ¬ (e.addr.toNat ≤ x ∧ x < e.addr.toNat + rows)) :
    (s.dmxWrite rows c es t).byteAt x = t.byteAt x := by
  induction es generalizing c t with
  | nil => rfl
  | cons e es ih =>
    rw [State.dmxWrite, ih _ _ fun d hd => h d (List.mem_cons_of_mem _ hd), State.byteAt_storeBytes, if_neg]
    simpa using h e List.mem_cons_self

/-- An address in one buffer of the table, and in no other, gets that channel's byte (R90). -/
theorem State.dmxWrite_byteAt_inside (rows c i : Nat) (es : List DestEntry) (t : State) (x : Nat) (hi : i < es.length)
    (hx : es[i].addr.toNat ≤ x ∧ x < es[i].addr.toNat + rows)
    (hother : ∀ j, (h : j < es.length) → j ≠ i → ¬ (es[j].addr.toNat ≤ x ∧ x < es[j].addr.toNat + rows)) :
    (s.dmxWrite rows c es t).byteAt x = s.dmxByte rows (c + i) es[i].addr.toNat (x - es[i].addr.toNat) := by
  induction es generalizing c i t with
  | nil => simp at hi
  | cons e es ih =>
    rw [State.dmxWrite]
    cases i with
    | zero =>
      simp only [List.getElem_cons_zero] at hx ⊢
      rw [State.dmxWrite_byteAt_outside, State.byteAt_storeBytes, if_pos (by simpa using hx)]
      · have hr : x - e.addr.toNat < rows := by omega
        simp [List.getD_eq_getElem?_getD, hr]
      · intro d hd
        obtain ⟨j, hj, rfl⟩ := List.getElem_of_mem hd
        exact hother (j + 1) (Nat.succ_lt_succ hj) (by omega)
    | succ i =>
      have := ih (c + 1) i (t.storeBytes e.addr.toNat ((List.range rows).map (s.dmxByte rows c e.addr.toNat)))
        (by simpa using hi) (by simpa using hx) fun j hj hne => by
          exact hother (j + 1) (Nat.succ_lt_succ hj) (by omega)
      rw [this]
      simp only [List.getElem_cons_succ]
      congr 1
      omega

/-- DMX done changes DMEM, the pc and the model's counter alone. -/
theorem State.dmxDone_only (mode : DmxMode) :
    ∃ m, s.dmxDone mode = { s with dmem := m, pc := s.pc + 4, freshSeed := s.freshSeed + 1 } := by
  obtain ⟨m, h⟩ := s.dmxWrite_only_dmem (s.dmxRows mode) 0 s.dmxTable s
  exact ⟨m, by unfold State.dmxDone; rw [h]; rfl⟩

theorem State.dmxDone_byteAt (mode : DmxMode) (x : Nat) :
    (s.dmxDone mode).byteAt x = (s.dmxWrite (s.dmxRows mode) 0 s.dmxTable s).byteAt x := rfl

end Sys2Proof.Machine
end

