-- ==== Sys2Proof/Laws/Frames.lean ====
section
/-!
SUPPORT. The frame of each named update: what writing a register, a tile or a block of DMEM, moving the pc and taking a
fault leave the same.
-/

namespace Sys2Proof.Machine

variable (s : State)

theorem sameCsrs_refl : SameCsrs s s :=
  ⟨⟨rfl, rfl, rfl, rfl, rfl⟩, ⟨rfl, rfl, rfl, rfl⟩, ⟨rfl, rfl, rfl, rfl, rfl, rfl, rfl⟩⟩

/-- Moving the pc changes nothing else. -/
theorem onlyPc_setPc (p : Word) : OnlyPc s (s.setPc p) :=
  ⟨fun _ => rfl, fun _ => rfl, sameCsrs_refl s, fun _ => rfl, fun _ => rfl, ⟨rfl, rfl, rfl⟩, rfl⟩

/-- Writing a scalar register and moving the pc changes nothing else (R17). -/
theorem wroteA_setPc (r : AReg) (x p : Word) : WroteA r x s ((s.writeA r x).setPc p) := by
  refine ⟨fun h => ?_, rfl, fun q hq => ?_, fun _ => rfl, sameCsrs_refl s, fun _ => rfl, fun _ => rfl, ⟨rfl, rfl, rfl⟩, rfl⟩
  · rw [State.readA_setPc, State.readA_writeA, if_pos ⟨rfl, h⟩]
  · rw [State.readA_setPc, State.readA_writeA, if_neg fun h => hq h.1]

/-- Writing a tile register and moving the pc changes nothing else. -/
theorem onlyV_setPc (r : VReg) (t : Tile) (p : Word) : OnlyV [r] s ((s.writeV r t).setPc p) := by
  refine ⟨fun _ => rfl, fun q hq => ?_, sameCsrs_refl s, fun _ => rfl, fun _ => rfl, ⟨rfl, rfl, rfl⟩, rfl⟩
  rw [State.readV_setPc, State.readV_writeV, if_neg fun h => hq (List.mem_singleton.2 h)]

/-- Storing a block and moving the pc changes nothing but the block's bytes. -/
theorem onlyDmem_setPc (a : Nat) (bs : List Byte) (p : Word) :
    OnlyDmem a bs.length s ((s.storeBytes a bs).setPc p) := by
  refine ⟨fun _ => rfl, fun _ => rfl, sameCsrs_refl s, fun x hx => ?_, fun _ => rfl, ⟨rfl, rfl, rfl⟩, rfl⟩
  rw [State.byteAt_setPc, State.byteAt_storeBytes, if_neg hx]

/-- Fault entry is what `FaultTaken` says (R141). -/
theorem faultTaken_raise (trap : Trap) : FaultTaken trap s (s.raise trap) :=
  ⟨rfl, rfl, rfl, rfl, rfl, rfl, rfl, rfl, rfl, rfl, ⟨rfl, rfl, rfl, rfl, rfl, rfl, rfl⟩, fun _ => rfl, fun _ => rfl,
    fun _ => rfl, fun _ => rfl, ⟨rfl, rfl, rfl⟩, rfl⟩

/-- A sign-extended immediate is its signed value modulo 2^32 (R76). -/
theorem signExtend_toNat {n : Nat} (x : BitVec n) (h : n ≤ 32) :
    ((x.signExtend 32).toNat : Int) = x.toInt % 2 ^ 32 := by
  have h1 := BitVec.toInt_signExtend_of_le (x := x) h
  have h2 := (x.signExtend 32).isLt
  rw [← h1, BitVec.toInt_eq_toNat_cond]
  split <;> omega

end Sys2Proof.Machine
end

