-- ==== Sys2Proof/Laws/Host.lean ====
section
/-!
SUPPORT. What the shared operations of the resets and of the host port can do: the blocks an interrupted store was writing,
the bytes a soft reset keeps, and where a host offset leads.
-/

namespace Sys2Proof.Machine

variable (s : State)

/-! ### The writes of DMX -/

/-- DMX's writes keep the canonical form. -/
theorem State.dmxWrite_wf (rows c : Nat) (es : List DestEntry) (t : State) (h : Memory.wf t.dmem = true) :
    Memory.wf (s.dmxWrite rows c es t).dmem = true := by
  induction es generalizing c t with
  | nil => exact h
  | cons e es ih => exact ih _ _ (Memory.write_wf _ _ _ h)

/-- DMX's writes stay in range where every buffer does. -/
theorem State.dmxWrite_below (n rows c : Nat) (es : List DestEntry) (t : State) (h : Memory.below n t.dmem = true)
    (hr : ∀ e ∈ es, 0 < rows → e.addr.toNat + rows ≤ n) : Memory.below n (s.dmxWrite rows c es t).dmem = true := by
  induction es generalizing c t with
  | nil => exact h
  | cons e es ih =>
    refine ih _ _ (Memory.write_below_of_empty_or _ _ _ _ h ?_) fun d hd => hr d (List.mem_cons_of_mem _ hd)
    have := hr e List.mem_cons_self
    simp only [List.length_map, List.length_range]
    omega

/-! ### The blocks an instruction writes -/

/-- A block that is written, if not empty, is in range (R52, R88). -/
theorem State.writtenBlocks_in_range (i : Instr) (b : Nat × Nat) (h : b ∈ s.writtenBlocks i) :
    b.2 = 0 ∨ b.1 + b.2 ≤ s.params.dmemBytes := by
  have access : ∀ (ea : Word) (n : Nat),
      b ∈ (match s.checkAccess ea n with | .ok a => [(a, n)] | .error _ => []) → b.1 + b.2 ≤ s.params.dmemBytes := by
    intro ea n hb
    rcases s.checkAccess_cases ea n with ⟨hc, -, hr⟩ | ⟨hc, -⟩ | ⟨hc, -, -⟩
    · rw [hc] at hb
      simp only [List.mem_singleton] at hb
      rw [hb]
      exact hr
    · rw [hc] at hb; cases hb
    · rw [hc] at hb; cases hb
  cases i with
  | stw ra rb imm16 => exact .inr (access _ _ h)
  | vst w v0 ra imm12 => exact .inr (access _ _ h)
  | vstl sz v0 ra lane imm12 => exact .inr (access _ _ h)
  | dmx w mode =>
    cases ht : s.dmxTrap w mode with
    | none =>
      obtain ⟨-, -, -, -, hr⟩ := (s.dmxTrap_none_iff w mode).1 ht
      simp only [State.writtenBlocks, ht] at h
      obtain ⟨e, he, rfl⟩ := List.mem_map.1 h
      obtain ⟨c, hc, rfl⟩ := (s.mem_dmxTable e).1 he
      have := hr c hc
      rw [State.dmxRows_eq]
      unfold DestInRange destAddr at this
      dsimp only
      omega
    | some t => simp [State.writtenBlocks, ht] at h
  | _ => simp [State.writtenBlocks] at h

/-- An instruction that writes no memory has no block. -/
theorem State.writtenBlocks_of_not_writes (i : Instr) (h : WritesDmem i = false) : s.writtenBlocks i = [] := by
  cases i <;> first | rfl | cases h

theorem State.blocksInProgress_idle (h : s.run = false) : s.blocksInProgress = [] := by
  simp [State.blocksInProgress, h]

theorem State.blocksInProgress_running (i : Instr) (h : s.run = true) (hf : s.fetch = .ok i) :
    s.blocksInProgress = s.writtenBlocks i := by
  simp [State.blocksInProgress, h, hf]

theorem State.blocksInProgress_in_range (b : Nat × Nat) (h : b ∈ s.blocksInProgress) :
    b.2 = 0 ∨ b.1 + b.2 ≤ s.params.dmemBytes := by
  unfold State.blocksInProgress at h
  split at h
  · split at h
    · exact s.writtenBlocks_in_range _ b h
    · cases h
  · cases h

/-! ### Soft reset -/

/-- An interrupted store touches only its own blocks (R161). -/
theorem Memory.lookup_abort (seed : Nat) (bs : List (Nat × Nat)) (m : List Host.Cell) (x : Nat)
    (h : ∀ b ∈ bs, ¬ (b.1 ≤ x ∧ x < b.1 + b.2)) :
    Memory.lookup (Memory.abort seed bs m) x = Memory.lookup m x := by
  induction bs generalizing m with
  | nil => rfl
  | cons b bs ih =>
    have hb := h b List.mem_cons_self
    rw [Memory.abort, ih _ fun d hd => h d (List.mem_cons_of_mem _ hd), Memory.lookup_write, if_neg (by simpa using hb)]

theorem Memory.abort_wf (seed : Nat) (bs : List (Nat × Nat)) (m : List Host.Cell) (h : Memory.wf m = true) :
    Memory.wf (Memory.abort seed bs m) = true := by
  induction bs generalizing m with
  | nil => exact h
  | cons b bs ih => exact ih _ (Memory.write_wf _ _ _ h)

theorem Memory.abort_below (n seed : Nat) (bs : List (Nat × Nat)) (m : List Host.Cell) (h : Memory.below n m = true)
    (hr : ∀ b ∈ bs, b.2 = 0 ∨ b.1 + b.2 ≤ n) : Memory.below n (Memory.abort seed bs m) = true := by
  induction bs generalizing m with
  | nil => exact h
  | cons b bs ih =>
    refine ih _ (Memory.write_below_of_empty_or _ _ _ _ h ?_) fun d hd => hr d (List.mem_cons_of_mem _ hd)
    simpa using hr b List.mem_cons_self

/-! ### Where a host offset leads -/

/-- A CSR is at four times its number (R149). -/
theorem State.portTarget_csr (off : Nat) (c : Csr) (h : off / 4 = (Csr.number c).toNat) :
    s.portTarget off = .csr c := by
  have hc : csrOf (BitVec.ofNat 8 (Csr.number c).toNat) = some c := by cases c <;> rfl
  have hn := (Csr.number c).isLt
  unfold State.portTarget
  rw [if_pos (by omega), Nat.mul_div_cancel _ (by omega), h, hc]

/-- IMEM word k is at `0x10000 + 4k` (R149). -/
theorem State.portTarget_imem_word (off k : Nat) (h : off / 4 = 0x4000 + k) (hw : k < 0x4000)
    (hk : k < s.params.imemWords) : s.portTarget off = .imem k := by
  have e : (off / 4 * 4 - 0x10000) / 4 = k := by omega
  unfold State.portTarget
  dsimp only
  rw [if_neg (by omega), if_pos (by omega), e, if_pos hk]

/-- The DMEM word at address a is at `0x100000 + a` (R149). -/
theorem State.portTarget_dmem_word (off a : Nat) (h : off / 4 * 4 = 0x100000 + a) (hw : a < 0x100000)
    (ha : a < s.params.dmemBytes) : s.portTarget off = .dmem a := by
  have e : off / 4 * 4 - 0x100000 = a := by omega
  unfold State.portTarget
  dsimp only
  rw [if_neg (by omega), if_neg (by omega), if_pos (by omega), e, if_pos ha]

/-- An IMEM offset inside the memory leads to a word of it (R149). -/
theorem State.portTarget_imem (off k : Nat) (h : s.portTarget off = .imem k) : k < s.params.imemWords := by
  unfold State.portTarget at h
  dsimp only at h
  split at h
  · split at h <;> cases h
  · split at h
    · split at h
      · cases h; assumption
      · cases h
    · split at h
      · split at h <;> cases h
      · cases h

/-- A DMEM offset inside the memory leads to an aligned word of it (R149). -/
theorem State.portTarget_dmem (off a : Nat) (h : s.portTarget off = .dmem a) : a < s.params.dmemBytes ∧ a % 4 = 0 := by
  unfold State.portTarget at h
  dsimp only at h
  split at h
  · split at h <;> cases h
  · split at h
    · split at h <;> cases h
    · split at h
      · split at h
        · rename_i ha
          injection h with h
          omega
        · cases h
      · cases h

end Sys2Proof.Machine
end

