-- ==== Sys2Proof/Laws/Oracle.lean ====
section
/-!
SUPPORT. What DCMP's shared operations can do: its table checks, one channel, the scan.
-/

namespace Sys2Proof.Machine

variable (s : State)

/-- The table checks all pass exactly where R117 says so. -/
theorem State.dcmpTrap_none_iff : s.dcmpTrap = none ↔ DcmpTablesOk s := by
  unfold State.dcmpTrap DcmpTablesOk
  simp only [check_eq_none]
  simp

theorem State.dcmpChannel_of_equal (c : Nat) (h : CmpEqual s c) : s.dcmpChannel c = .ok false := by
  obtain ⟨hl, hr, hb⟩ := h
  have hlen : (s.tableEntry s.dtab.toNat c).len = (s.tableEntry s.dtab2.toNat c).len := BitVec.eq_of_toNat_eq hl
  have h1 : ¬ (0 < cmpLen1 s c ∧ cmpAddr1 s c + cmpLen1 s c > s.params.dmemBytes) := by
    rintro ⟨h0, h1⟩
    have := (hr h0).1
    omega
  have h2 : ¬ (0 < cmpLen1 s c ∧ cmpAddr2 s c + cmpLen1 s c > s.params.dmemBytes) := by
    rintro ⟨h0, h1⟩
    have := (hr h0).2
    omega
  have hbe := (s.bytesAt_eq_iff (cmpAddr1 s c) (cmpAddr2 s c) (cmpLen1 s c)).2 hb
  unfold cmpLen1 cmpAddr1 cmpAddr2 at *
  simp only [State.dcmpChannel]
  rw [if_neg (by simp [hlen]), if_neg h1, if_neg h2, hbe]
  simp

theorem State.dcmpChannel_of_differs (c : Nat) (h : CmpDiffers s c) : s.dcmpChannel c = .ok true := by
  by_cases hl : (s.tableEntry s.dtab.toNat c).len = (s.tableEntry s.dtab2.toNat c).len
  · rcases h with h | ⟨hr, k, hk, hne⟩
    · exact absurd (by unfold cmpLen1 cmpLen2; rw [hl]) h
    · have h1 : ¬ (0 < cmpLen1 s c ∧ cmpAddr1 s c + cmpLen1 s c > s.params.dmemBytes) := by
        rintro ⟨h0, h1⟩
        have := (hr h0).1
        omega
      have h2 : ¬ (0 < cmpLen1 s c ∧ cmpAddr2 s c + cmpLen1 s c > s.params.dmemBytes) := by
        rintro ⟨h0, h1⟩
        have := (hr h0).2
        omega
      have hbe : ¬ s.bytesAt (cmpAddr1 s c) (cmpLen1 s c) = s.bytesAt (cmpAddr2 s c) (cmpLen1 s c) :=
        fun hb => hne ((s.bytesAt_eq_iff _ _ _).1 hb k hk)
      unfold cmpLen1 cmpAddr1 cmpAddr2 at *
      simp only [State.dcmpChannel]
      rw [if_neg (by simp [hl]), if_neg h1, if_neg h2]
      simp [hbe]
  · simp [State.dcmpChannel, hl]

/-- The scan passes over the channels that are equal (R117). -/
theorem State.dcmpScan_skip (c k j : Nat) (h : ∀ d, c ≤ d → d < c + j → CmpEqual s d) :
    s.dcmpScan c (j + k) = s.dcmpScan (c + j) k := by
  induction j generalizing c with
  | zero => simp
  | succ j ih =>
    have h0 := s.dcmpChannel_of_equal c (h c (Nat.le_refl _) (by omega))
    have e : j + 1 + k = (j + k) + 1 := by omega
    rw [e, State.dcmpScan, h0]
    show s.dcmpScan (c + 1) (j + k) = _
    rw [ih (c + 1) fun d h1 h2 => h d (by omega) (by omega)]
    congr 1
    omega

/-- The scan stops at the first channel that differs (R117). -/
theorem State.dcmpScan_differs (c k : Nat) (h : CmpDiffers s c) : s.dcmpScan c (k + 1) = .ok (BitVec.ofNat 32 c) := by
  rw [State.dcmpScan, s.dcmpChannel_of_differs c h]

end Sys2Proof.Machine
end

