-- ==== Sys2Proof/Laws/PerInstr.lean ====
section
/-!
SUPPORT. The encoder against the opcode table, one lemma per instruction: every field of every row of spec/opcode_table.json,
fixed or operand, stands in the encoded word at the row's bits.
-/

namespace Sys2Proof.Laws.EncodeMatchesTable

/-- The fields of the instruction's row of spec/opcode_table.json, from the left: lowest bit, width, value. -/
def tableFields : Instr → List (Nat × Nat × Nat)
  | .nop => [(0, 32, 0x4000000)]
  | .halt => [(0, 32, 0x8000000)]
  | .j imm16 => [(16, 16, 0x1000), (0, 16, imm16.toNat)]
  | .dbnz ra imm16 => [(26, 6, 5), (23, 3, ra.val), (16, 7, 0), (0, 16, imm16.toNat)]
  | .bne ra rb imm16 => [(26, 6, 6), (23, 3, ra.val), (20, 3, rb.val), (16, 4, 0), (0, 16, imm16.toNat)]
  | .li ra imm16 => [(26, 6, 8), (23, 3, ra.val), (16, 7, 0), (0, 16, imm16.toNat)]
  | .lih ra imm16 => [(26, 6, 9), (23, 3, ra.val), (16, 7, 0), (0, 16, imm16.toNat)]
  | .addi ra rb imm16 => [(26, 6, 0xa), (23, 3, ra.val), (20, 3, rb.val), (16, 4, 0), (0, 16, imm16.toNat)]
  | .add ra rb rc => [(26, 6, 0xb), (23, 3, ra.val), (20, 3, rb.val), (17, 3, rc.val), (0, 17, 0)]
  | .ldw ra rb imm16 => [(26, 6, 0xc), (23, 3, ra.val), (20, 3, rb.val), (16, 4, 0), (0, 16, imm16.toNat)]
  | .stw ra rb imm16 => [(26, 6, 0xd), (23, 3, ra.val), (20, 3, rb.val), (16, 4, 0), (0, 16, imm16.toNat)]
  | .csrr ra csr => [(26, 6, 0xe), (23, 3, ra.val), (8, 15, 0), (0, 8, csr.number.toNat)]
  | .csrw ra csr => [(26, 6, 0xf), (23, 3, ra.val), (8, 15, 0), (0, 8, csr.number.toNat)]
  | .vld w v0 ra imm12 => [(26, 6, 0x10), (25, 1, w.bits.toNat), (21, 4, v0.val), (18, 3, ra.val), (12, 6, 0),
      (0, 12, imm12.toNat)]
  | .vst w v0 ra imm12 => [(26, 6, 0x11), (25, 1, w.bits.toNat), (21, 4, v0.val), (18, 3, ra.val), (12, 6, 0),
      (0, 12, imm12.toNat)]
  | .vldl sz v0 ra lane imm12 => [(26, 6, 0x12), (25, 1, sz.bits.toNat), (21, 4, v0.val), (18, 3, ra.val),
      (15, 3, lane.val), (12, 3, 0), (0, 12, imm12.toNat)]
  | .vstl sz v0 ra lane imm12 => [(26, 6, 0x13), (25, 1, sz.bits.toNat), (21, 4, v0.val), (18, 3, ra.val),
      (15, 3, lane.val), (12, 3, 0), (0, 12, imm12.toNat)]
  | .tr4b w v0 v1 => [(26, 6, 0x18), (25, 1, w.bits.toNat), (21, 4, v0.val), (17, 4, v1.val), (0, 17, 0)]
  | .shufd w v0 v1 v2 imm8 => [(26, 6, 0x19), (25, 1, w.bits.toNat), (21, 4, v0.val), (17, 4, v1.val),
      (13, 4, v2.val), (8, 5, 0), (0, 8, imm8.toNat)]
  | .tr4d w v0 v1 v2 v3 => [(26, 6, 0x1a), (25, 1, w.bits.toNat), (21, 4, v0.val), (17, 4, v1.val), (13, 4, v2.val),
      (9, 4, v3.val), (0, 9, 0)]
  | .tr8b w v0 v1 v2 v3 => [(26, 6, 0x1b), (25, 1, w.bits.toNat), (21, 4, v0.val), (17, 4, v1.val), (13, 4, v2.val),
      (9, 4, v3.val), (0, 9, 0)]
  | .tr16b w => [(26, 6, 0x1c), (25, 1, w.bits.toNat), (0, 25, 0)]
  | .vmov w v0 v1 => [(26, 6, 0x1d), (25, 1, w.bits.toNat), (21, 4, v0.val), (17, 4, v1.val), (0, 17, 0)]
  | .vinsh v0 v1 => [(25, 7, 0x3c), (21, 4, v0.val), (17, 4, v1.val), (0, 17, 0)]
  | .vexth v0 v1 => [(25, 7, 0x3e), (21, 4, v0.val), (17, 4, v1.val), (0, 17, 0)]
  | .dmx w mode => [(26, 6, 0x20), (25, 1, w.bits.toNat), (22, 3, mode.bits.toNat), (0, 22, 0)]
  | .dcmp ra => [(26, 6, 0x21), (23, 3, ra.val), (0, 23, 0)]

/-- Every field of the row has its value in the instruction's word. -/
def Statement (i : Instr) : Prop :=
  ∀ f ∈ tableFields i, (encode i).toNat / 2 ^ f.1 % 2 ^ f.2.1 = f.2.2

theorem aregBits_toNat (r : AReg) : (aregBits r).toNat = r.val := by
  have := r.isLt
  simp [aregBits]

theorem vregBits_toNat (r : VReg) : (vregBits r).toNat = r.val := by
  have := r.isLt
  simp [vregBits]

theorem laneBits_toNat (l : Fin 8) : (laneBits l).toNat = l.val := by
  have := l.isLt
  simp [laneBits]

/-! ### The formats as numbers (R70 to R74) -/

theorem encodeI_toNat (op : BitVec 6) (ra rb : AReg) (imm16 : BitVec 16) :
    (encodeI op ra rb imm16).toNat = op.toNat * 2 ^ 26 + ra.val * 2 ^ 23 + rb.val * 2 ^ 20 + imm16.toNat := by
  simp only [encodeI, append_toNat, aregBits_toNat, BitVec.toNat_ofNat]
  omega

theorem encodeR_toNat (op : BitVec 6) (ra rb rc : AReg) :
    (encodeR op ra rb rc).toNat = op.toNat * 2 ^ 26 + ra.val * 2 ^ 23 + rb.val * 2 ^ 20 + rc.val * 2 ^ 17 := by
  simp only [encodeR, append_toNat, aregBits_toNat, BitVec.toNat_ofNat]
  omega

theorem encodeC_toNat (op : BitVec 6) (ra : AReg) (csr : Csr) :
    (encodeC op ra csr).toNat = op.toNat * 2 ^ 26 + ra.val * 2 ^ 23 + csr.number.toNat := by
  simp only [encodeC, append_toNat, aregBits_toNat, BitVec.toNat_ofNat]
  omega

theorem encodeVM_toNat (op : BitVec 6) (b25 : BitVec 1) (v0 : VReg) (ra : AReg) (lane : Fin 8) (imm12 : BitVec 12) :
    (encodeVM op b25 v0 ra lane imm12).toNat =
      op.toNat * 2 ^ 26 + b25.toNat * 2 ^ 25 + v0.val * 2 ^ 21 + ra.val * 2 ^ 18 + lane.val * 2 ^ 15 + imm12.toNat := by
  simp only [encodeVM, append_toNat, aregBits_toNat, vregBits_toNat, laneBits_toNat, BitVec.toNat_ofNat]
  omega

theorem encodeVR_toNat (op : BitVec 6) (w : Width) (v0 v1 v2 v3 : VReg) (imm8 : BitVec 8) :
    (encodeVR op w v0 v1 v2 v3 imm8).toNat =
      op.toNat * 2 ^ 26 + w.bits.toNat * 2 ^ 25 + v0.val * 2 ^ 21 + v1.val * 2 ^ 17 + v2.val * 2 ^ 13 +
        v3.val * 2 ^ 9 + imm8.toNat := by
  simp only [encodeVR, append_toNat, vregBits_toNat, BitVec.toNat_ofNat]
  omega

/-! ### One lemma per instruction -/

theorem nop : Statement .nop := by unfold Statement tableFields; decide

theorem halt : Statement .halt := by unfold Statement tableFields; decide

theorem j (imm16 : BitVec 16) : Statement (.j imm16) := by
  have h0 := imm16.isLt
  simp only [Statement, tableFields, List.forall_mem_cons, List.not_mem_nil, false_implies, implies_true, and_true,
    encode, encodeI_toNat, BitVec.ofNat_eq_ofNat, BitVec.toNat_ofNat]
  omega

theorem dbnz (ra : AReg) (imm16 : BitVec 16) : Statement (.dbnz ra imm16) := by
  have h0 := ra.isLt
  have h1 := imm16.isLt
  simp only [Statement, tableFields, List.forall_mem_cons, List.not_mem_nil, false_implies, implies_true, and_true,
    encode, encodeI_toNat, BitVec.ofNat_eq_ofNat, BitVec.toNat_ofNat]
  omega

theorem bne (ra rb : AReg) (imm16 : BitVec 16) : Statement (.bne ra rb imm16) := by
  have h0 := ra.isLt
  have h1 := rb.isLt
  have h2 := imm16.isLt
  simp only [Statement, tableFields, List.forall_mem_cons, List.not_mem_nil, false_implies, implies_true, and_true,
    encode, encodeI_toNat, BitVec.ofNat_eq_ofNat, BitVec.toNat_ofNat]
  omega

theorem li (ra : AReg) (imm16 : BitVec 16) : Statement (.li ra imm16) := by
  have h0 := ra.isLt
  have h1 := imm16.isLt
  simp only [Statement, tableFields, List.forall_mem_cons, List.not_mem_nil, false_implies, implies_true, and_true,
    encode, encodeI_toNat, BitVec.ofNat_eq_ofNat, BitVec.toNat_ofNat]
  omega

theorem lih (ra : AReg) (imm16 : BitVec 16) : Statement (.lih ra imm16) := by
  have h0 := ra.isLt
  have h1 := imm16.isLt
  simp only [Statement, tableFields, List.forall_mem_cons, List.not_mem_nil, false_implies, implies_true, and_true,
    encode, encodeI_toNat, BitVec.ofNat_eq_ofNat, BitVec.toNat_ofNat]
  omega

theorem addi (ra rb : AReg) (imm16 : BitVec 16) : Statement (.addi ra rb imm16) := by
  have h0 := ra.isLt
  have h1 := rb.isLt
  have h2 := imm16.isLt
  simp only [Statement, tableFields, List.forall_mem_cons, List.not_mem_nil, false_implies, implies_true, and_true,
    encode, encodeI_toNat, BitVec.ofNat_eq_ofNat, BitVec.toNat_ofNat]
  omega

theorem add (ra rb rc : AReg) : Statement (.add ra rb rc) := by
  have h0 := ra.isLt
  have h1 := rb.isLt
  have h2 := rc.isLt
  simp only [Statement, tableFields, List.forall_mem_cons, List.not_mem_nil, false_implies, implies_true, and_true,
    encode, encodeR_toNat, BitVec.ofNat_eq_ofNat, BitVec.toNat_ofNat]
  omega

theorem ldw (ra rb : AReg) (imm16 : BitVec 16) : Statement (.ldw ra rb imm16) := by
  have h0 := ra.isLt
  have h1 := rb.isLt
  have h2 := imm16.isLt
  simp only [Statement, tableFields, List.forall_mem_cons, List.not_mem_nil, false_implies, implies_true, and_true,
    encode, encodeI_toNat, BitVec.ofNat_eq_ofNat, BitVec.toNat_ofNat]
  omega

theorem stw (ra rb : AReg) (imm16 : BitVec 16) : Statement (.stw ra rb imm16) := by
  have h0 := ra.isLt
  have h1 := rb.isLt
  have h2 := imm16.isLt
  simp only [Statement, tableFields, List.forall_mem_cons, List.not_mem_nil, false_implies, implies_true, and_true,
    encode, encodeI_toNat, BitVec.ofNat_eq_ofNat, BitVec.toNat_ofNat]
  omega

theorem csrr (ra : AReg) (csr : Csr) : Statement (.csrr ra csr) := by
  have h0 := ra.isLt
  have h1 := csr.number.isLt
  simp only [Statement, tableFields, List.forall_mem_cons, List.not_mem_nil, false_implies, implies_true, and_true,
    encode, encodeC_toNat, BitVec.ofNat_eq_ofNat, BitVec.toNat_ofNat]
  omega

theorem csrw (ra : AReg) (csr : Csr) : Statement (.csrw ra csr) := by
  have h0 := ra.isLt
  have h1 := csr.number.isLt
  simp only [Statement, tableFields, List.forall_mem_cons, List.not_mem_nil, false_implies, implies_true, and_true,
    encode, encodeC_toNat, BitVec.ofNat_eq_ofNat, BitVec.toNat_ofNat]
  omega

theorem vld (w : Width) (v0 : VReg) (ra : AReg) (imm12 : BitVec 12) : Statement (.vld w v0 ra imm12) := by
  have h0 := w.bits.isLt
  have h1 := v0.isLt
  have h2 := ra.isLt
  have h3 := imm12.isLt
  simp only [Statement, tableFields, List.forall_mem_cons, List.not_mem_nil, false_implies, implies_true, and_true,
    encode, encodeVM_toNat, BitVec.ofNat_eq_ofNat, BitVec.toNat_ofNat]
  omega

theorem vst (w : Width) (v0 : VReg) (ra : AReg) (imm12 : BitVec 12) : Statement (.vst w v0 ra imm12) := by
  have h0 := w.bits.isLt
  have h1 := v0.isLt
  have h2 := ra.isLt
  have h3 := imm12.isLt
  simp only [Statement, tableFields, List.forall_mem_cons, List.not_mem_nil, false_implies, implies_true, and_true,
    encode, encodeVM_toNat, BitVec.ofNat_eq_ofNat, BitVec.toNat_ofNat]
  omega

theorem vldl (sz : ElemSize) (v0 : VReg) (ra : AReg) (lane : Fin 8) (imm12 : BitVec 12) : Statement (.vldl sz v0 ra lane imm12) := by
  have h0 := sz.bits.isLt
  have h1 := v0.isLt
  have h2 := ra.isLt
  have h3 := lane.isLt
  have h4 := imm12.isLt
  simp only [Statement, tableFields, List.forall_mem_cons, List.not_mem_nil, false_implies, implies_true, and_true,
    encode, encodeVM_toNat, BitVec.ofNat_eq_ofNat, BitVec.toNat_ofNat]
  omega

theorem vstl (sz : ElemSize) (v0 : VReg) (ra : AReg) (lane : Fin 8) (imm12 : BitVec 12) : Statement (.vstl sz v0 ra lane imm12) := by
  have h0 := sz.bits.isLt
  have h1 := v0.isLt
  have h2 := ra.isLt
  have h3 := lane.isLt
  have h4 := imm12.isLt
  simp only [Statement, tableFields, List.forall_mem_cons, List.not_mem_nil, false_implies, implies_true, and_true,
    encode, encodeVM_toNat, BitVec.ofNat_eq_ofNat, BitVec.toNat_ofNat]
  omega

theorem tr4b (w : Width) (v0 v1 : VReg) : Statement (.tr4b w v0 v1) := by
  have h0 := w.bits.isLt
  have h1 := v0.isLt
  have h2 := v1.isLt
  simp only [Statement, tableFields, List.forall_mem_cons, List.not_mem_nil, false_implies, implies_true, and_true,
    encode, encodeVR_toNat, BitVec.ofNat_eq_ofNat, BitVec.toNat_ofNat]
  omega

theorem shufd (w : Width) (v0 v1 v2 : VReg) (imm8 : BitVec 8) : Statement (.shufd w v0 v1 v2 imm8) := by
  have h0 := w.bits.isLt
  have h1 := v0.isLt
  have h2 := v1.isLt
  have h3 := v2.isLt
  have h4 := imm8.isLt
  simp only [Statement, tableFields, List.forall_mem_cons, List.not_mem_nil, false_implies, implies_true, and_true,
    encode, encodeVR_toNat, BitVec.ofNat_eq_ofNat, BitVec.toNat_ofNat]
  omega

theorem tr4d (w : Width) (v0 v1 v2 v3 : VReg) : Statement (.tr4d w v0 v1 v2 v3) := by
  have h0 := w.bits.isLt
  have h1 := v0.isLt
  have h2 := v1.isLt
  have h3 := v2.isLt
  have h4 := v3.isLt
  simp only [Statement, tableFields, List.forall_mem_cons, List.not_mem_nil, false_implies, implies_true, and_true,
    encode, encodeVR_toNat, BitVec.ofNat_eq_ofNat, BitVec.toNat_ofNat]
  omega

theorem tr8b (w : Width) (v0 v1 v2 v3 : VReg) : Statement (.tr8b w v0 v1 v2 v3) := by
  have h0 := w.bits.isLt
  have h1 := v0.isLt
  have h2 := v1.isLt
  have h3 := v2.isLt
  have h4 := v3.isLt
  simp only [Statement, tableFields, List.forall_mem_cons, List.not_mem_nil, false_implies, implies_true, and_true,
    encode, encodeVR_toNat, BitVec.ofNat_eq_ofNat, BitVec.toNat_ofNat]
  omega

theorem tr16b (w : Width) : Statement (.tr16b w) := by
  have h0 := w.bits.isLt
  simp only [Statement, tableFields, List.forall_mem_cons, List.not_mem_nil, false_implies, implies_true, and_true,
    encode, encodeVR_toNat, BitVec.ofNat_eq_ofNat, BitVec.toNat_ofNat]
  omega

theorem vmov (w : Width) (v0 v1 : VReg) : Statement (.vmov w v0 v1) := by
  have h0 := w.bits.isLt
  have h1 := v0.isLt
  have h2 := v1.isLt
  simp only [Statement, tableFields, List.forall_mem_cons, List.not_mem_nil, false_implies, implies_true, and_true,
    encode, encodeVR_toNat, BitVec.ofNat_eq_ofNat, BitVec.toNat_ofNat]
  omega

theorem vinsh (v0 v1 : VReg) : Statement (.vinsh v0 v1) := by
  have h0 := v0.isLt
  have h1 := v1.isLt
  have hw : Width.x.bits.toNat = 0 := rfl
  simp only [Statement, tableFields, List.forall_mem_cons, List.not_mem_nil, false_implies, implies_true, and_true,
    encode, encodeVR_toNat, BitVec.ofNat_eq_ofNat, BitVec.toNat_ofNat]
  omega

theorem vexth (v0 v1 : VReg) : Statement (.vexth v0 v1) := by
  have h0 := v0.isLt
  have h1 := v1.isLt
  have hw : Width.x.bits.toNat = 0 := rfl
  simp only [Statement, tableFields, List.forall_mem_cons, List.not_mem_nil, false_implies, implies_true, and_true,
    encode, encodeVR_toNat, BitVec.ofNat_eq_ofNat, BitVec.toNat_ofNat]
  omega

theorem dmx (w : Width) (mode : DmxMode) : Statement (.dmx w mode) := by
  cases w <;> cases mode <;> unfold Statement tableFields <;> decide

theorem dcmp (ra : AReg) : Statement (.dcmp ra) := by
  have h0 := ra.isLt
  simp only [Statement, tableFields, List.forall_mem_cons, List.not_mem_nil, false_implies, implies_true, and_true,
    encode, encodeR_toNat, BitVec.ofNat_eq_ofNat, BitVec.toNat_ofNat]
  omega

end Sys2Proof.Laws.EncodeMatchesTable
end

