-- ==== Sys2Proof/Laws/Transpose.lean ====
section
/-!
SUPPORT. What the shared operations of the transposes can do: the rows of TR4D, TR8B and TR16B, and the bytes of a width form.
-/

namespace Sys2Proof.Machine

variable (s : State)

/-- Every half of a width form is the operation on that half (R20, R98). -/
theorem byte_byHalves (w : Width) (f : Nat → Nat → Byte) (h k : Nat) (hh : HasHalf w h) (hk : k < 16) :
    (Tile.byHalves w f).byte (16 * h + k) = f h k := by
  rcases hh with rfl | ⟨rfl, rfl⟩
  · rw [Nat.mul_zero, Nat.zero_add, Tile.byte_byHalves_low _ _ _ hk]
  · rw [Nat.mul_one, Tile.byte_byHalves_high _ _ hk]

/-- Every half of a doubleword width form is the operation on that half (R20, R98). -/
theorem dword_byHalvesD (w : Width) (f : Nat → Nat → Word) (h j : Nat) (hh : HasHalf w h) (hj : j < 4) :
    (Tile.byHalvesD w f).dword (4 * h + j) = f h j := by
  rcases hh with rfl | ⟨rfl, rfl⟩
  · rw [Nat.mul_zero, Nat.zero_add, Tile.dword_byHalvesD_low _ _ _ hj]
  · rw [Nat.mul_one, Tile.dword_byHalvesD_high _ _ hj]

/-- With W = 0 half 1 of a width form is zero (R20, R98). -/
theorem highZero_byHalves (w : Width) (f : Nat → Nat → Byte) : HighZero w (Tile.byHalves w f) := by
  rintro rfl k hk
  exact Tile.byte_byHalves_zero f k hk

/-- With W = 0 half 1 of a doubleword width form is zero (R20, R98). -/
theorem highZero_byHalvesD (w : Width) (f : Nat → Nat → Word) : HighZero w (Tile.byHalvesD w f) := by
  rintro rfl k hk
  by_cases h : k < 32
  · rw [Tile.byHalvesD, Tile.byte_ofDwords _ _ h, if_neg (by omega)]
    apply BitVec.eq_of_toNat_eq
    rw [wordByte_toNat]
    simp
  · rw [Tile.byHalvesD, Tile.ofDwords, Tile.byte_ofBytes, if_neg h]

/-- P exchanges the two base-4 digits of a byte index (R14). -/
theorem permP_eq (i j : Nat) (hi : i < 4) (hj : j < 4) : permP (4 * j + i) = 4 * i + j := by
  obtain rfl | rfl | rfl | rfl : i = 0 ∨ i = 1 ∨ i = 2 ∨ i = 3 := by omega
  all_goals
    obtain rfl | rfl | rfl | rfl : j = 0 ∨ j = 1 ∨ j = 2 ∨ j = 3 := by omega
    all_goals rfl

theorem selector_eq (imm8 : BitVec 8) (k : Nat) : selector imm8 k = imm8.toNat / 2 ^ (2 * k) % 4 := by
  simp [selector, BitVec.extractLsb'_toNat, Nat.shiftRight_eq_div_pow]

/-- The i-th row of TR4D and TR8B is the i-th register. -/
theorem State.rows_eq (v0 v1 v2 v3 : VReg) (i : Nat) (h : i < 4) :
    s.rows v0 v1 v2 v3 i = s.readV (pick v0 v1 v2 v3 i) := by
  obtain rfl | rfl | rfl | rfl : i = 0 ∨ i = 1 ∨ i = 2 ∨ i = 3 := by omega
  all_goals rfl

/-- Four distinct registers get four tiles, each its own. -/
theorem State.readV_writeRows (v0 v1 v2 v3 : VReg) (f : Nat → Tile) (i : Nat) (hi : i < 4)
    (h : pairwiseDistinct v0 v1 v2 v3 = true) :
    (s.writeRows v0 v1 v2 v3 f).readV (pick v0 v1 v2 v3 i) = f i := by
  obtain ⟨h01, h02, h03, h12, h13, h23⟩ := of_decide_eq_true h
  unfold State.writeRows
  simp only [State.readV_writeV]
  obtain rfl | rfl | rfl | rfl : i = 0 ∨ i = 1 ∨ i = 2 ∨ i = 3 := by omega
  · simp [pick, h01, h02, h03]
  · simp [pick, h12, h13]
  · simp [pick, h23]
  · simp [pick]

theorem State.readV_writeRows_other (v0 v1 v2 v3 q : VReg) (f : Nat → Tile) (h : q ∉ [v0, v1, v2, v3]) :
    (s.writeRows v0 v1 v2 v3 f).readV q = s.readV q := by
  simp only [List.mem_cons, List.not_mem_nil, or_false, not_or] at h
  simp [State.writeRows, State.readV_writeV, h]

@[simp] theorem State.readA_writeRows (v0 v1 v2 v3 : VReg) (f : Nat → Tile) (q : AReg) :
    (s.writeRows v0 v1 v2 v3 f).readA q = s.readA q := by simp [State.writeRows]

@[simp] theorem State.byteAt_writeRows (v0 v1 v2 v3 : VReg) (f : Nat → Tile) (x : Nat) :
    (s.writeRows v0 v1 v2 v3 f).byteAt x = s.byteAt x := by simp [State.writeRows]

theorem onlyV_writeRows (v0 v1 v2 v3 : VReg) (f : Nat → Tile) (p : Word) :
    OnlyV [v0, v1, v2, v3] s ((s.writeRows v0 v1 v2 v3 f).setPc p) :=
  ⟨fun _ => rfl, fun q hq => s.readV_writeRows_other v0 v1 v2 v3 q f hq, sameCsrs_refl s, fun _ => rfl, fun _ => rfl,
    ⟨rfl, rfl, rfl⟩, rfl⟩

theorem State.allRows_eq (r : VReg) : s.allRows r.val = s.readV r := by
  simp [State.allRows, State.readV]

/-- V0 to V15 get sixteen tiles, each its own (R105). -/
theorem State.readV_writeAllRows (f : Nat → Tile) (q : VReg) : (s.writeAllRows f).readV q = f q.val := by
  unfold State.writeAllRows State.readV
  fin_cases q <;> rfl

end Sys2Proof.Machine
end

