-- ==== Sys2Proof/Tests/Slice0.lean ====
section
/-!
SUPPORT. Tests: the WellFormed checks, decoding of words written out in the spec, one step of each instruction with results
from the spec's worked examples and vectors (95_test_vectors.md), and a witness for the hypotheses of each statement.
-/

namespace Sys2Proof.Tests

open Sys2Proof Sys2Proof.Machine

/-! ### Small states -/

/-- Reset, with the sequencer running at pc 0. -/
def running : State := { State.reset with run := true }

/-- Running, with the words in IMEM from word 0 on. -/
def program (ws : List Word) : State := { running with imem := Memory.block 0 ws }

/-- `n` bytes `x, x+1, …` at address `a`. -/
def rising (a n x : Nat) : List Host.Cell := Memory.block a ((List.range n).map fun k => BitVec.ofNat 8 (x + k))

/-- The state an instruction answers. -/
def after (i : Instr) (s : State) : State :=
  match exec i s with
  | .next t => t
  | .fault _ => s
  | .refused _ => s

/-- The state a step answers. -/
def stepped (s : State) : State :=
  match step s with
  | .next t => t
  | .fault _ => s
  | .refused _ => s

/-- A running state with one scalar register set. -/
def withA (r : AReg) (x : Word) : State := running.writeA r x

/-- A tile whose byte k is `x + k`. -/
def tile (x : Nat) : Tile := Tile.ofBytes fun k => BitVec.ofNat 8 (x + k)

/-- Bytes `k, k+1, …` of a tile as numbers. -/
def bytesOf (t : Tile) (k n : Nat) : List Nat := (List.range n).map fun j => (t.byte (k + j)).toNat

/-- The memory bytes from `a` as numbers. -/
def memOf (s : State) (a n : Nat) : List Nat := (s.bytesAt a n).map BitVec.toNat

/-! ### WellFormed refuses each forbidden operand combination (R79 items 3, 4, 6, 7) -/

theorem test_wf_csrw_ctrl : WellFormed (.csrw 1 .ctrl) = false := by decide
theorem test_wf_csrw_faultInfo : WellFormed (.csrw 1 .faultInfo) = false := by decide
theorem test_wf_csrw_nts : WellFormed (.csrw 1 .nts) = true := by decide
theorem test_wf_vldl_lane : WellFormed (.vldl .q 0 0 4 0) = false := by decide
theorem test_wf_vstl_lane : WellFormed (.vstl .q 0 0 7 0) = false := by decide
theorem test_wf_vldl_dword_lane : WellFormed (.vldl .d 0 0 7 0) = true := by decide
theorem test_wf_tr4d_duplicate : WellFormed (.tr4d .x 0 1 2 0) = false := by decide
theorem test_wf_tr8b_duplicate : WellFormed (.tr8b .y 3 3 2 1) = false := by decide
theorem test_wf_dmx_ref_wide : WellFormed (.dmx .y .ref) = false := by decide
theorem test_wf_dmx_scalar_wide : WellFormed (.dmx .y .scalar) = false := by decide

/-! ### Decoding of words the spec writes out (the Encoding lines of R93 to R132) -/

theorem test_decode_nop : decode 0x04000000 = .ok .nop := by decide
theorem test_decode_halt : decode 0x08000000 = .ok .halt := by decide
theorem test_decode_j : decode 0x1000FFFF = .ok (.j 0xFFFF) := by decide
theorem test_decode_dbnz : decode 0x1480FFFD = .ok (.dbnz 1 0xFFFD) := by decide
theorem test_decode_bne : decode 0x18A00002 = .ok (.bne 1 2 2) := by decide
theorem test_decode_li : decode 0x20801234 = .ok (.li 1 0x1234) := by decide
theorem test_decode_lih : decode 0x2480ABCD = .ok (.lih 1 0xABCD) := by decide
theorem test_decode_addi : decode 0x2910FFFF = .ok (.addi 2 1 0xFFFF) := by decide
theorem test_decode_add : decode 0x2D940000 = .ok (.add 3 1 2) := by decide
theorem test_decode_ldw : decode 0x32200008 = .ok (.ldw 4 2 8) := by decide
theorem test_decode_stw : decode 0x3620000C = .ok (.stw 4 2 12) := by decide
theorem test_decode_csrr : decode 0x3A800004 = .ok (.csrr 5 .id) := by decide
theorem test_decode_csrw : decode 0x3F000008 = .ok (.csrw 6 .nts) := by decide
theorem test_decode_vld : decode 0x42280020 = .ok (.vld .y 1 2 32) := by decide
theorem test_decode_vst : decode 0x442C0010 = .ok (.vst .x 1 3 16) := by decide
theorem test_decode_vldl : decode 0x4A488FF8 = .ok (.vldl .q 2 2 1 0xFF8) := by decide
theorem test_decode_vstl : decode 0x4E4D8000 = .ok (.vstl .q 2 3 3 0) := by decide
theorem test_decode_tr4b : decode 0x62420000 = .ok (.tr4b .y 2 1) := by decide
theorem test_decode_shufd : decode 0x64802044 = .ok (.shufd .x 4 0 1 0x44) := by decide
theorem test_decode_tr4d : decode 0x6A091800 = .ok (.tr4d .y 0 4 8 12) := by decide
theorem test_decode_tr8b : decode 0x6C024600 = .ok (.tr8b .x 0 1 2 3) := by decide
theorem test_decode_tr16b : decode 0x72000000 = .ok (.tr16b .y) := by decide
theorem test_decode_vmov : decode 0x76AC0000 = .ok (.vmov .y 5 6) := by decide
theorem test_decode_vinsh : decode 0x78240000 = .ok (.vinsh 1 2) := by decide
theorem test_decode_vexth : decode 0x7C620000 = .ok (.vexth 3 1) := by decide
theorem test_decode_dmx : decode 0x82C00000 = .ok (.dmx .y .t8) := by decide
theorem test_decode_dmx_scalar : decode 0x80400000 = .ok (.dmx .x .scalar) := by decide
theorem test_decode_dcmp : decode 0x86800000 = .ok (.dcmp 5) := by decide

/-- Words the spec calls illegal (SEQ-15 to SEQ-20, DMX-I1 to DMX-I3), each by the item of R79 it violates. -/
theorem test_decode_zero : decode 0 = .error .reservedOpcode := by decide
theorem test_decode_opcode_03 : decode 0x0C000000 = .error .reservedOpcode := by decide
theorem test_decode_nop_low_bit : decode 0x04000001 = .error .reservedField := by decide
theorem test_decode_li_rb : decode 0x20900000 = .error .reservedField := by decide
theorem test_decode_csrw_ctrl : decode 0x3C800000 = .error .forbiddenCsr := by decide
theorem test_decode_csrr_unimplemented : decode 0x3880000F = .error .forbiddenCsr := by decide
theorem test_decode_dmx_y_ref : decode 0x82000000 = .error .illegalMode := by decide
theorem test_decode_dmx_mode_5 : decode 0x81400000 = .error .illegalMode := by decide
theorem test_decode_dmx_low_bit : decode 0x81000001 = .error .reservedField := by decide
theorem test_decode_vinsh_wide : decode 0x7A240000 = .error .wideHalfMove := by decide
theorem test_decode_lane : decode 0x4A4A0000 = .error .laneOutOfRange := by decide
theorem test_decode_duplicate : decode 0x68024000 = .error .duplicateRegister := by decide

/-! ### One step from the host's names -/

theorem test_table_word : decodeTableWord 32 0x20801234 = some (.li 1 0x1234) := by decide
theorem test_fetch_word_runs : (stepped (State.reset.withFetchWord 32 0x20801234)).readA 1 = 0x1234 := by decide
theorem test_fetch_word_is_first : (stepped (State.reset.withFetchWord 32 0x20801234)).pc = 4 := by decide

/-! ### Sequencing and scalar arithmetic (SEQ-1 to SEQ-7, SEQ-24) -/

theorem test_nop : (stepped (program [0x04000000])).pc = 4 := by decide
theorem test_halt :
    ((after .halt running).statusWord, (after .halt running).pc) = (0x00000002, 0) := by decide
theorem test_j_forward : (after (.j 3) { running with pc := 0x20 }).pc = 0x2C := by decide
theorem test_j_back : (after (.j 0xFFFF) { running with pc := 0x20 }).pc = 0x1C := by decide
theorem test_dbnz_falls_through :
    ((after (.dbnz 1 5) (withA 1 1)).readA 1, (after (.dbnz 1 5) (withA 1 1)).pc) = (0, 4) := by decide
theorem test_dbnz_wraps :
    ((after (.dbnz 1 2) running).readA 1, (after (.dbnz 1 2) running).pc) = (0xFFFFFFFF, 8) := by decide
theorem test_bne_equal : (after (.bne 1 2 2) running).pc = 4 := by decide
theorem test_bne_differs : (after (.bne 1 2 2) (withA 2 6)).pc = 8 := by decide
theorem test_li_zero_extends : (after (.li 2 0xFFFF) running).readA 2 = 0x0000FFFF := by decide
theorem test_li_a0 : (after (.li 0 5) running).readA 0 = 0 := by decide
theorem test_lih_keeps_low : (after (.lih 1 0xABCD) (withA 1 0x1234)).readA 1 = 0xABCD1234 := by decide
theorem test_addi_negative : (after (.addi 3 0 0xFFFF) running).readA 3 = 0xFFFFFFFF := by decide
theorem test_addi_wraps : (after (.addi 4 3 1) (withA 3 0xFFFFFFFF)).readA 4 = 0 := by decide
theorem test_add_wraps : (after (.add 6 5 5) (withA 5 0x80008000)).readA 6 = 0x00010000 := by decide

/-! ### Scalar memory and CSRs (SEQ-8 to SEQ-15, and the examples of R129, R130) -/

theorem test_ldw_little_endian :
    (after (.ldw 4 2 8) { withA 2 0x200 with dmem := [(0x208, 0), (0x209, 0x10), (0x20A, 0), (0x20B, 0)] }).readA 4 =
      0x00001000 := by decide
theorem test_ldw_misaligned_first :
    ((after (.ldw 3 0 0xFFFE) running).statusWord, (after (.ldw 3 0 0xFFFE) running).faultInfo) =
      (0x34, 0xFFFFFFFE) := by decide
theorem test_stw_little_endian :
    memOf (after (.stw 1 2 0) ((withA 1 0x11223344).writeA 2 0x200)) 0x200 4 = [0x44, 0x33, 0x22, 0x11] := by decide
theorem test_stw_out_of_range :
    ((after (.stw 3 2 0) (withA 2 0x10000)).statusWord, (after (.stw 3 2 0) (withA 2 0x10000)).faultInfo) =
      (0x44, 0x00010000) := by decide
theorem test_csrr_status : (after (.csrr 4 .status) running).readA 4 = 1 := by decide
theorem test_csrr_cfg : (after (.csrr 3 .cfg) running).readA 3 = 0x0000100A := by decide
theorem test_csrw_nts : (after (.csrw 6 .nts) (withA 6 30)).nts = 30 := by decide
theorem test_csrw_ctrl_is_illegal :
    ((stepped (program [0x3C800000])).statusWord, (stepped (program [0x3C800000])).faultInfo) =
      (0x14, 0x3C800000) := by decide

/-! ### Tile memory (TM-1 to TM-5) -/

/-- A2 at 0x100, where 32 bytes 0x80 .. 0x9F stand; V1 holds bytes 0 .. 31. -/
def tileState : State := { ((withA 2 0x100).writeV 1 (tile 0)) with dmem := rising 0x100 32 0x80 }

theorem test_vld_x :
    bytesOf ((after (.vld .x 1 2 0) tileState).readV 1) 12 8 = [0x8C, 0x8D, 0x8E, 0x8F, 0, 0, 0, 0] := by
  decide +kernel
theorem test_vld_y : bytesOf ((after (.vld .y 1 2 0) tileState).readV 1) 30 2 = [0x9E, 0x9F] := by decide +kernel
theorem test_vst_x : memOf (after (.vst .x 1 2 0) tileState) 0x10E 4 = [0x0E, 0x0F, 0x90, 0x91] := by decide +kernel
theorem test_vst_y : memOf (after (.vst .y 1 2 0) tileState) 0x11E 2 = [0x1E, 0x1F] := by decide +kernel
theorem test_vldl_d :
    bytesOf ((after (.vldl .d 1 2 3 0) tileState).readV 1) 11 6 = [0x0B, 0x80, 0x81, 0x82, 0x83, 0x10] := by
  decide +kernel
theorem test_vldl_q :
    bytesOf ((after (.vldl .q 1 2 3 8) tileState).readV 1) 23 9 =
      [0x17, 0x88, 0x89, 0x8A, 0x8B, 0x8C, 0x8D, 0x8E, 0x8F] := by decide +kernel
theorem test_vstl_d :
    memOf (after (.vstl .d 1 2 2 4) tileState) 0x103 6 = [0x83, 0x08, 0x09, 0x0A, 0x0B, 0x88] := by decide +kernel
theorem test_vstl_q : memOf (after (.vstl .q 1 2 3 16) tileState) 0x10F 3 = [0x8F, 0x18, 0x19] := by decide +kernel

/-! ### Transposes (SRC-1, TP vectors, and the examples of R99 to R109) -/

/-- V0 to V3 hold bytes 0x00.., 0x20.., 0x40.., 0x60... -/
def four : State := (((running.writeV 0 (tile 0)).writeV 1 (tile 0x20)).writeV 2 (tile 0x40)).writeV 3 (tile 0x60)

theorem test_tr4b_x :
    bytesOf ((after (.tr4b .x 2 0) four).readV 2) 0 20 =
      [0, 4, 8, 12, 1, 5, 9, 13, 2, 6, 10, 14, 3, 7, 11, 15, 0, 0, 0, 0] := by decide +kernel
theorem test_tr4b_y : bytesOf ((after (.tr4b .y 2 0) four).readV 2) 16 5 = [16, 20, 24, 28, 17] := by decide +kernel
theorem test_shufd_low :
    bytesOf ((after (.shufd .x 4 0 1 0xEE) four).readV 4) 0 16 =
      [8, 9, 10, 11, 12, 13, 14, 15, 0x28, 0x29, 0x2A, 0x2B, 0x2C, 0x2D, 0x2E, 0x2F] := by decide +kernel
theorem test_shufd_high :
    bytesOf ((after (.shufd .y 4 0 1 0x1B) four).readV 4) 16 6 = [28, 29, 30, 31, 24, 25] := by decide +kernel
theorem test_tr4d_row : bytesOf ((after (.tr4d .x 0 1 2 3) four).readV 1) 0 5 = [4, 5, 6, 7, 0x24] := by decide +kernel
theorem test_tr4d_high : bytesOf ((after (.tr4d .y 0 1 2 3) four).readV 0) 16 5 = [16, 17, 18, 19, 0x30] := by
  decide +kernel
theorem test_tr8b_column : bytesOf ((after (.tr8b .x 0 1 2 3) four).readV 0) 0 10 =
    [0x00, 0x08, 0x20, 0x28, 0x40, 0x48, 0x60, 0x68, 0x04, 0x0C] := by decide +kernel
theorem test_tr8b_last : bytesOf ((after (.tr8b .y 0 1 2 3) four).readV 3) 30 2 = [0x77, 0x7F] := by decide +kernel
theorem test_tr16b_column : bytesOf ((after (.tr16b .x) four).readV 1) 0 5 = [0x01, 0x21, 0x41, 0x61, 0] := by
  decide +kernel
theorem test_tr16b_high : bytesOf ((after (.tr16b .y) four).readV 2) 16 3 = [0x12, 0x32, 0x52] := by decide +kernel
theorem test_vmov_x : bytesOf ((after (.vmov .x 5 1) four).readV 5) 14 4 = [0x2E, 0x2F, 0, 0] := by decide +kernel
theorem test_vmov_y : bytesOf ((after (.vmov .y 5 1) four).readV 5) 30 2 = [0x3E, 0x3F] := by decide +kernel
theorem test_vinsh : bytesOf ((after (.vinsh 0 1) four).readV 0) 14 4 = [0x0E, 0x0F, 0x20, 0x21] := by decide +kernel
theorem test_vexth : bytesOf ((after (.vexth 0 1) four).readV 0) 14 4 = [0x3E, 0x3F, 0, 0] := by decide +kernel

/-! ### DMX (the vectors of 2.4, at a smaller shape) -/

/-- The bytes of a table of entries (base, length). -/
def tableBytes (es : List (Nat × Nat)) : List Byte :=
  es.flatMap fun e => wordBytes (BitVec.ofNat 32 e.1) ++ wordBytes (BitVec.ofNat 32 e.2)

/-- Two channels of three bytes: source bytes 0x10 .. 0x15 at 0, the table at 0x40 with the given entries. -/
def pair (es : List (Nat × Nat)) : State :=
  { running with
    nts := 2
    dcnt := 2
    dsz := 3
    slen := 6
    dtab := 0x40
    dmem := rising 0 6 0x10 ++ Memory.block 0x40 (tableBytes es) }

/-- Four channels of 32 bytes, source at 0, the table at 0x200, buffers at 0x400, 0x440, 0x480, 0x4C0. -/
def quad : State :=
  { running with
    nts := 4
    dcnt := 4
    dsz := 32
    slen := 128
    dtab := 0x200
    dmem := Memory.block 0x200 (tableBytes [(0x400, 32), (0x440, 32), (0x480, 32), (0x4C0, 32)]) }

/-- STATUS and FAULT_INFO after a DMX. -/
def dmxStatus (w : Width) (mode : DmxMode) (s : State) : Word × Word :=
  ((after (.dmx w mode) s).statusWord, (after (.dmx w mode) s).faultInfo)

theorem test_dmx_channels :
    (memOf (after (.dmx .x .scalar) (pair [(0x80, 3), (0x90, 3)])) 0x80 3,
      memOf (after (.dmx .x .scalar) (pair [(0x80, 3), (0x90, 3)])) 0x90 3) =
      ([0x10, 0x12, 0x14], [0x11, 0x13, 0x15]) := by decide +kernel

theorem test_dmx_wrong_length : dmxStatus .x .ref (pair [(0x80, 3), (0x90, 4)]) = (0x94, 1) := by decide +kernel

/-! ### DCMP (the vectors of 2.5, at a smaller shape) -/

/-- Two sets of two buffers of three bytes; the second buffer of the second set is `x`, its length `n`. -/
def twoSets (x : Nat) (n : Nat) : State :=
  { running with
    dcnt := 2
    dtab := 0x40
    dtab2 := 0x60
    dmem := Memory.block 0x40 (tableBytes [(0x80, 3), (0x90, 3)]) ++
      Memory.block 0x60 (tableBytes [(0xA0, 3), (0xB0, n)]) ++
      rising 0x80 3 1 ++ rising 0x90 3 7 ++ rising 0xA0 3 1 ++ rising 0xB0 3 x }

theorem test_dcmp_equal : (after (.dcmp 1) (twoSets 7 3)).readA 1 = 0xFFFFFFFF := by decide +kernel
theorem test_dcmp_differs : (after (.dcmp 1) (twoSets 6 3)).readA 1 = 1 := by decide +kernel

/-! ### The host (HOST-1 to HOST-9) -/

theorem test_host_reads_cfg : (State.reset.hostTurn (.read 0x014)).portData = 0x0000100A := by decide
theorem test_host_start_and_irq :
    let s := ((State.reset.hostTurn (.write 0x10000 0x08000000)).hostTurn (.write 0 3))
    ((stepped s).statusWord, (stepped s).pc, (stepped s).irq) = (0x2, 0, true) := by decide
theorem test_host_soft_reset_wins : (State.reset.hostTurn (.write 0 5)).statusWord = 0 := by decide
theorem test_host_dmem_word : memOf (State.reset.hostTurn (.write 0x100200 0x11223344)) 0x200 4 =
    [0x44, 0x33, 0x22, 0x11] := by decide

/-! ### Witnesses: for each statement with hypotheses, operands and states that meet them, clause by clause

Each theorem bears the name of the statement it belongs to. -/

theorem witness_DecodeOfEncodeIsTheInstruction :
    WellFormed (.vldl .q 15 7 3 0xFFF) = true ∧ WellFormed (.dmx .y .t16) = true ∧
    WellFormed (.tr4d .y 0 5 10 15) = true ∧ WellFormed (.csrw 7 .dtab2) = true := by decide

theorem witness_AcceptedWordIsTheEncodingOfItsInstruction :
    decode 0x83000000 = .ok (.dmx .y .t16) ∧ decode 0x4A498FFF = .ok (.vldl .q 2 2 3 0xFFF) := by decide

theorem witness_IllFormedOperandsAreRejected :
    WellFormed (.vldl .q 0 0 4 0) = false ∧ WellFormed (.tr8b .x 1 2 3 1) = false ∧
    WellFormed (.dmx .y .ref) = false ∧ WellFormed (.csrw 0 .cfg) = false := by decide

theorem witness_ReservedOpcodesAreRejected :
    (0x03FFFFFF : Word).toNat / 2 ^ 26 = 0x00 ∧ (0x0C000000 : Word).toNat / 2 ^ 26 = 0x03 ∧
    (0x1FFFFFFF : Word).toNat / 2 ^ 26 = 0x07 ∧ (0x50000000 : Word).toNat / 2 ^ 26 = 0x14 ∧
    (0x5FFFFFFF : Word).toNat / 2 ^ 26 = 0x17 ∧ (0x88000000 : Word).toNat / 2 ^ 26 = 0x22 ∧
    (0xFFFFFFFF : Word).toNat / 2 ^ 26 = 0x3F := by decide

/-- A NOP in the last word of IMEM, at the pc. -/
def lastWord : State := { running with pc := 0xFFC, imem := [(1023, 0x04000000)] }

theorem witness_StepRunsTheDecodedInstruction :
    lastWord.run = true ∧ lastWord.pc.toNat + 4 ≤ 4 * lastWord.params.imemWords ∧
    decode (lastWord.imemWord (lastWord.pc.toNat / 4)) = .ok .nop ∧ lastWord.turns = [] ∧
    { lastWord with turns := [.sequencer] }.turns = .sequencer :: [] ∧
    { lastWord with turns := [.host (.write 0 4), .sequencer] }.turns = .host (.write 0 4) :: [.sequencer] := by decide

theorem witness_FetchOutsideImemRaisesFetchRange :
    let past := { lastWord with pc := 0x1000 }
    let illegal := { lastWord with imem := [(1023, 0x0C000000)] }
    lastWord.turns = [] ∧ lastWord.run = true ∧ 4 * past.params.imemWords < past.pc.toNat + 4 ∧
    lastWord.pc.toNat + 4 ≤ 4 * lastWord.params.imemWords ∧
    decode (lastWord.imemWord (lastWord.pc.toNat / 4)) = .ok .nop ∧
    decode (illegal.imemWord (illegal.pc.toNat / 4)) = .error .reservedOpcode := by decide

theorem witness_EveryStepAnswersANextState : State.reset.turns = [] ∧ State.reset.run = false := by decide

theorem witness_ResetLeavesTheResetValues : State.reset.run = false := by decide

theorem witness_EveryStepKeepsTheInvariant :
    StateInv lastWord ∧ step lastWord = .next (after .nop lastWord) := ⟨by decide, rfl⟩

theorem witness_FaultEntryRecordsTheFault : lastWord.turns = [] := by decide

theorem witness_FaultsArePrecise :
    exec (.ldw 3 0 0xFFFE) running = .next (after (.ldw 3 0 0xFFFE) running) ∧ running.fault = false ∧
    (after (.ldw 3 0 0xFFFE) running).fault = true := ⟨rfl, by decide, by decide⟩

theorem witness_RunEndsOnlyByHaltOrFault :
    exec .halt running = .next (after .halt running) ∧ running.run = true ∧ (after .halt running).run = false ∧
    exec (.ldw 3 0 0xFFFE) running = .next (after (.ldw 3 0 0xFFFE) running) ∧
    (after (.ldw 3 0 0xFFFE) running).run = false := ⟨rfl, by decide, by decide, rfl, by decide⟩

/-- The same of a step: a HALT fetched in a turn of the sequencer, and a pc outside IMEM. -/
theorem witness_RunEndsOnlyByHaltOrFault_step :
    let halts := { program [0x08000000] with turns := [.sequencer] }
    let past := { lastWord with pc := 0x1000 }
    (halts.turns = .sequencer :: [] ∧ step halts = .next (stepped halts) ∧ halts.run = true ∧
      (stepped halts).run = false) ∧
    past.turns = [] ∧ step past = .next (stepped past) ∧ past.run = true ∧ (stepped past).run = false :=
  ⟨⟨rfl, rfl, by decide, by decide⟩, rfl, rfl, by decide, by decide⟩

theorem witness_InstructionsLeaveTheHostsStateAlone :
    exec (.li 1 5) running = .next (after (.li 1 5) running) ∧ ∀ ra c, Instr.li 1 5 ≠ .csrw ra c :=
  ⟨rfl, fun _ _ h => by cases h⟩

theorem witness_InstructionsWriteOnlyTheirDestinations :
    exec (.li 1 5) running = .next (after (.li 1 5) running) ∧ (2 : AReg) ∉ scalarDest (.li 1 5) ∧
    WritesDmem (.li 1 5) = false := ⟨rfl, by decide, by decide⟩

/-- Bytes on both sides of the four a store writes lie in no block it writes; for a store that faults, every byte. -/
theorem witness_InstructionsWriteOnlyTheirDestinations_store :
    exec (.stw 1 0 4) running = .next (after (.stw 1 0 4) running) ∧
    running.writtenBlocks (.stw 1 0 4) = [(4, 4)] ∧
    (∀ b ∈ running.writtenBlocks (.stw 1 0 4), ¬ (b.1 ≤ 3 ∧ 3 < b.1 + b.2) ∧ ¬ (b.1 ≤ 8 ∧ 8 < b.1 + b.2)) ∧
    running.writtenBlocks (.stw 1 0 2) = [] := ⟨rfl, by decide, by decide, by decide⟩

theorem witness_JumpAndBranchReachTheirTargets :
    (withA 2 6).readA 1 ≠ (withA 2 6).readA 2 ∧ running.readA 1 = running.readA 2 := by decide

theorem witness_DbnzDecrementsAndBranches :
    running.readA 1 - 1 ≠ 0 ∧ (withA 1 1).readA 1 - 1 = 0 := by decide

theorem witness_LdwLoadsTheWord :
    AccessOk running (running.ea16 0 0) 4 ∧ AccessOk (withA 2 0xFFFC) ((withA 2 0xFFFC).ea16 2 0) 4 := by
  unfold AccessOk; decide

theorem witness_StwStoresTheWord :
    AccessOk running (running.ea16 0 0) 4 ∧ AccessOk (withA 2 0x10000) ((withA 2 0x10000).ea16 2 0xFFFC) 4 := by
  unfold AccessOk; decide

theorem witness_BadAccessesRaiseTheirFaults :
    (WellFormed (.ldw 3 0 0xFFFE) = true ∧ (running.ea16 0 0xFFFE).toNat % 4 ≠ 0) ∧
    (WellFormed (.stw 3 0 0xFFFC) = true ∧ (running.ea16 0 0xFFFC).toNat % 4 = 0 ∧
      running.params.dmemBytes < (running.ea16 0 0xFFFC).toNat + 4) ∧
    (WellFormed (.vst .y 1 2 0) = true ∧ ((withA 2 0xFFF0).ea12 2 0).toNat % Width.bytes .y ≠ 0) ∧
    (WellFormed (.vld .x 1 2 0) = true ∧ ((withA 2 0x10000).ea12 2 0).toNat % Width.bytes .x = 0 ∧
      (withA 2 0x10000).params.dmemBytes < ((withA 2 0x10000).ea12 2 0).toNat + Width.bytes .x) ∧
    (WellFormed (.vldl .q 1 2 3 0) = true ∧ ((withA 2 4).ea12 2 0).toNat % ElemSize.bytes .q ≠ 0) ∧
    (WellFormed (.vstl .d 1 2 7 0) = true ∧ ((withA 2 0x10000).ea12 2 0).toNat % ElemSize.bytes .d = 0 ∧
      (withA 2 0x10000).params.dmemBytes < ((withA 2 0x10000).ea12 2 0).toNat + ElemSize.bytes .d) := by decide

theorem witness_CsrrReadsTheCsr : StateInv running ∧ running.run = true ∧ (7 : AReg) ≠ 0 := by decide

theorem witness_CsrsReadTheirFields : State.reset.params.legal := by decide

theorem witness_CsrwWritesOnlyWritableCsrs :
    Csr.dtab2 ∈ [Csr.nts, .dsz, .src, .slen, .dtab, .dcnt, .dtab2] ∧ Csr.dsz ≠ .dtab2 ∧ Csr.dsz ≠ .pc ∧
    Csr.faultInfo ∉ [Csr.nts, .dsz, .src, .slen, .dtab, .dcnt, .dtab2] := by decide

theorem witness_VldLoadsTheTile :
    AccessOk running (running.ea12 0 0) (Width.bytes .x) ∧
    AccessOk (withA 2 0xFFE0) ((withA 2 0xFFE0).ea12 2 0) (Width.bytes .y) := by unfold AccessOk; decide

theorem witness_VstStoresTheTile :
    AccessOk (withA 2 0x10000) ((withA 2 0x10000).ea12 2 0xFF0) (Width.bytes .x) ∧
    AccessOk running (running.ea12 0 0) (Width.bytes .y) := by unfold AccessOk; decide

theorem witness_VldlLoadsOneElement :
    ElemSize.laneFits .q 3 = true ∧ ElemSize.laneFits .d 7 = true ∧
    AccessOk running (running.ea12 0 0) (ElemSize.bytes .d) ∧
    AccessOk (withA 2 0xFFF8) ((withA 2 0xFFF8).ea12 2 0) (ElemSize.bytes .q) := by unfold AccessOk; decide

theorem witness_VstlStoresOneElement :
    ElemSize.laneFits .q 0 = true ∧ ElemSize.laneFits .d 0 = true ∧
    AccessOk (withA 2 0xFFFC) ((withA 2 0xFFFC).ea12 2 0) (ElemSize.bytes .d) ∧
    AccessOk running (running.ea12 0 0) (ElemSize.bytes .q) := by unfold AccessOk; decide

theorem witness_Tr4bTransposesBytes : HasHalf .x 0 ∧ HasHalf .y 1 := by unfold HasHalf; decide
theorem witness_ShufdSelectsDoublewords : HasHalf .x 0 ∧ HasHalf .y 1 := by unfold HasHalf; decide
theorem witness_Tr16bTransposesBytes : HasHalf .x 0 ∧ HasHalf .y 1 := by unfold HasHalf; decide
theorem witness_TileMovesMoveHalves : HasHalf .x 0 ∧ HasHalf .y 1 := by unfold HasHalf; decide
theorem witness_Tr4dTransposesDoublewords : pairwiseDistinct 0 4 8 12 = true := by decide
theorem witness_Tr8bTransposesBytes : pairwiseDistinct 15 0 7 3 = true := by decide
theorem witness_TransposesUndoThemselves : pairwiseDistinct 3 2 1 0 = true := by decide
theorem witness_Tr4dIsTwoShufflePasses : [0, 1, 2, 3, 12, 13, 14, (15 : VReg)].Nodup := by decide
theorem witness_Tr8bIsBuiltFromPrimitives : [0, 1, 2, 3, 4, 5, 6, (7 : VReg)].Nodup := by decide
theorem witness_Tr16bIsATwoLevelTranspose :
    (1 : VReg).val % 4 = (4 : VReg).val / 4 ∧ (1 : VReg).val / 4 = (4 : VReg).val % 4 := by decide
theorem witness_WideFormIsTwoNarrowForms :
    ((5 : VReg) ≠ 0 ∧ (5 : VReg) ≠ 1 ∧ (5 : VReg) ≠ 2) ∧ ((6 : VReg) ≠ 0 ∧ (6 : VReg) ≠ 1 ∧ (6 : VReg) ≠ 2) ∧
    (5 : VReg) ≠ 6 ∧ [0, 1, 2, 3, 4, 5, 6, (7 : VReg)].Nodup := by decide

/-- For TR16B: every register of the first state holds A0..BF, every one of the second B0..BF in half 0. -/
theorem witness_WideFormIsTwoNarrowForms_tr16b :
    let s := running.writeAllRows fun _ => Tile.ofBytes fun k => BitVec.ofNat 8 (0xA0 + k)
    let d := running.writeAllRows fun _ => Tile.ofBytes fun k => BitVec.ofNat 8 (0xB0 + k)
    ∀ (r : VReg) k, k < 16 → (d.readV r).byte k = (s.readV r).byte (16 + k) := by decide +kernel

/-! ### Witnesses for DMX and DCMP -/

theorem dmxReady_quad : DmxReady .y .t4 quad := by
  unfold DmxReady DmxShapeOk ShapeFits RowCountFits TileFits LengthsFit BasesFit TileFits SourceInRange DestInRange
    IsTileMode
  decide +kernel

theorem quad_buffers : ∀ c, c < 4 → destAddr quad c = 0x400 + 0x40 * c := by decide +kernel

theorem dmxDisjoint_quad : DmxDisjoint quad (expectedRows quad .t4) := by
  have hr : expectedRows quad .t4 = 32 := by decide
  intro c x hc hx
  have hc' : c < 4 := hc
  rw [hr] at hx ⊢
  unfold InDest at hx
  rw [quad_buffers c hc'] at hx
  refine ⟨fun h => ?_, fun h => ?_, fun d hd hne h => ?_⟩
  · have : quad.src.toNat + quad.slen.toNat = 128 := by decide
    omega
  · have : quad.dtab.toNat + 8 * quad.nts.toNat = 0x220 := by decide
    omega
  · unfold InDest at h
    rw [quad_buffers d hd] at h
    omega

theorem witness_DmxDemultiplexes :
    WellFormed (.dmx .y .t4) = true ∧ DmxReady .y .t4 quad ∧ DmxDisjoint quad (expectedRows quad .t4) ∧
    3 < quad.nts.toNat ∧ 31 < expectedRows quad .t4 :=
  ⟨by decide, dmxReady_quad, dmxDisjoint_quad, by decide, by decide⟩

/-- Two channels whose second buffer begins inside the first: byte 0x80 lies in the first alone. -/
def crossed : State := pair [(0x80, 3), (0x81, 3)]

theorem dmxReady_crossed : DmxReady .x .ref crossed := by
  unfold DmxReady DmxShapeOk ShapeFits RowCountFits TileFits LengthsFit BasesFit TileFits SourceInRange DestInRange
    IsTileMode
  decide +kernel

theorem witness_DmxOverlapLeavesClearBytesRight :
    WellFormed (.dmx .x .ref) = true ∧ DmxReady .x .ref crossed ∧ 0 < crossed.nts.toNat ∧
    InDest crossed (expectedRows crossed .ref) 0 0x80 ∧ Clear crossed (expectedRows crossed .ref) 0 0x80 ∧
    ¬ Clear crossed (expectedRows crossed .ref) 0 0x81 := by
  refine ⟨by decide, dmxReady_crossed, by decide, ?_⟩
  unfold Clear InDest
  decide +kernel

/-- The four channels with other CSRs: NTS, DSZ, SLEN, DCNT, DTAB. -/
def quadCsrs (nts dsz slen dcnt dtab : Word) : State :=
  { quad with nts := nts, dsz := dsz, slen := slen, dcnt := dcnt, dtab := dtab }

/-- The checks of DMX's CSRs that come before check number `n` of R88 pass (n from 1 to 7). -/
def PassedBefore (n : Nat) (s : State) : Prop :=
  (1 < n → s.nts.toNat ≠ 0) ∧ (2 < n → ShapeFits .t4 s) ∧ (3 < n → RowCountFits .t4 s) ∧
  (4 < n → TileFits .y .t4 s.dsz.toNat) ∧ (5 < n → s.dcnt = s.nts) ∧ (6 < n → s.dtab.toNat % 4 = 0)

/-- One state for each check of DMX's CSRs, the checks before it passed (DMX-F1 to DMX-F7). -/
theorem witness_DmxShapeChecksFaultInOrder :
    WellFormed (.dmx .y .t4) = true ∧
    (quadCsrs 0 32 128 4 0x200).nts.toNat = 0 ∧
    (PassedBefore 2 (quadCsrs 4 32 127 4 0x200) ∧ ¬ ShapeFits .t4 (quadCsrs 4 32 127 4 0x200)) ∧
    (PassedBefore 3 (quadCsrs 3 32 96 3 0x200) ∧ ¬ RowCountFits .t4 (quadCsrs 3 32 96 3 0x200)) ∧
    (PassedBefore 4 (quadCsrs 4 48 192 4 0x200) ∧ ¬ TileFits .y .t4 (quadCsrs 4 48 192 4 0x200).dsz.toNat) ∧
    (PassedBefore 5 (quadCsrs 4 32 128 5 0x200) ∧ (quadCsrs 4 32 128 5 0x200).dcnt ≠ 4) ∧
    (PassedBefore 6 (quadCsrs 4 32 128 4 0x202) ∧ (quadCsrs 4 32 128 4 0x202).dtab.toNat % 4 ≠ 0) ∧
    (PassedBefore 7 (quadCsrs 4 32 128 4 0xFFE4) ∧
      (quadCsrs 4 32 128 4 0xFFE4).params.dmemBytes < (quadCsrs 4 32 128 4 0xFFE4).dtab.toNat + 8 * 4) := by
  unfold PassedBefore ShapeFits RowCountFits TileFits IsTileMode
  constructorm* _ ∧ _
  all_goals decide +kernel

/-- The same four channels, channel 3's entry replaced. -/
def quadWith (addr len : Nat) : State :=
  { quad with dmem := Memory.block 0x200 (tableBytes [(0x400, 32), (0x440, 32), (0x480, 32), (addr, len)]) }

/-- One state for each check of DMX's table, the checks before it passed (DMX-F9 to DMX-F12). -/
theorem witness_DmxTableChecksFaultInOrder :
    WellFormed (.dmx .y .t4) = true ∧ DmxShapeOk .y .t4 quad ∧
    (DmxShapeOk .y .t4 (quadWith 0x4C0 31) ∧ 3 < (quadWith 0x4C0 31).nts.toNat ∧
      destLen (quadWith 0x4C0 31) 3 ≠ expectedRows (quadWith 0x4C0 31) .t4 ∧
      ∀ d, d < 3 → destLen (quadWith 0x4C0 31) d = expectedRows (quadWith 0x4C0 31) .t4) ∧
    (DmxShapeOk .y .t4 { quad with src := 0x10 } ∧ LengthsFit .t4 { quad with src := 0x10 } ∧
      ¬ TileFits .y .t4 { quad with src := 0x10 }.src.toNat) ∧
    (DmxShapeOk .y .t4 (quadWith 0x4D0 32) ∧ LengthsFit .t4 (quadWith 0x4D0 32) ∧ TileFits .y .t4 (quadWith 0x4D0 32).src.toNat ∧
      ¬ TileFits .y .t4 (destAddr (quadWith 0x4D0 32) 3) ∧
      ∀ d, d < 3 → TileFits .y .t4 (destAddr (quadWith 0x4D0 32) d)) ∧
    (DmxShapeOk .y .t4 { quad with src := 0xFFA0 } ∧ LengthsFit .t4 { quad with src := 0xFFA0 } ∧
      BasesFit .y .t4 { quad with src := 0xFFA0 } ∧ ¬ SourceInRange { quad with src := 0xFFA0 }) ∧
    (DmxShapeOk .y .t4 (quadWith 0x10000 32) ∧ LengthsFit .t4 (quadWith 0x10000 32) ∧
      BasesFit .y .t4 (quadWith 0x10000 32) ∧ SourceInRange (quadWith 0x10000 32) ∧
      ¬ DestInRange .t4 (quadWith 0x10000 32) 3 ∧ ∀ d, d < 3 → DestInRange .t4 (quadWith 0x10000 32) d) := by
  unfold DmxShapeOk ShapeFits RowCountFits TileFits LengthsFit BasesFit TileFits SourceInRange DestInRange IsTileMode
  constructorm* _ ∧ _
  all_goals decide +kernel

theorem witness_DmxModesAgree : WellFormed (.dmx .y .t4) = true ∧ DmxReady .y .t4 quad := ⟨by decide, dmxReady_quad⟩

theorem witness_DcmpReportsTheFirstDifference :
    (DcmpTablesOk (twoSets 6 3) ∧ 1 < (twoSets 6 3).dcnt.toNat ∧ (∀ d, d < 1 → CmpEqual (twoSets 6 3) d) ∧
      CmpDiffers (twoSets 6 3) 1) ∧
    CmpDiffers (twoSets 7 2) 1 ∧
    (DcmpTablesOk (twoSets 7 3) ∧ ∀ c, c < (twoSets 7 3).dcnt.toNat → CmpEqual (twoSets 7 3) c) := by
  have h : (twoSets 6 3).byteAt (cmpAddr1 (twoSets 6 3) 1 + 0) ≠ (twoSets 6 3).byteAt (cmpAddr2 (twoSets 6 3) 1 + 0) := by
    decide +kernel
  have hr : CmpInRange (twoSets 6 3) 1 := by unfold CmpInRange; decide +kernel
  refine ⟨⟨?_, ?_, ?_, .inr ⟨hr, 0, ?_, h⟩⟩, .inl ?_, ?_, ?_⟩
  all_goals
    try unfold DcmpTablesOk
    try unfold CmpEqual CmpInRange
    decide +kernel

/-- Two sets whose first buffers are at `a` and `b`; no buffer holds anything. -/
def setsAt (a b : Nat) : State :=
  { running with
    dcnt := 2
    dtab := 0x40
    dtab2 := 0x60
    dmem := Memory.block 0x40 (tableBytes [(a, 3), (0x90, 3)]) ++ Memory.block 0x60 (tableBytes [(b, 3), (0xB0, 3)]) }

/-- The state with other table bases. -/
def tablesAt (dtab dtab2 : Word) : State := { setsAt 0x80 0xA0 with dtab := dtab, dtab2 := dtab2 }

/-- One state for each check of DCMP, the checks before it passed (DCMP-6, DCMP-7). -/
theorem witness_DcmpFaultsInOrder :
    (tablesAt 0x41 0x60).dtab.toNat % 4 ≠ 0 ∧
    ((tablesAt 0x40 0x62).dtab.toNat % 4 = 0 ∧ (tablesAt 0x40 0x62).dtab2.toNat % 4 ≠ 0) ∧
    ((tablesAt 0xFFF4 0x60).dtab.toNat % 4 = 0 ∧ (tablesAt 0xFFF4 0x60).dtab2.toNat % 4 = 0 ∧
      (tablesAt 0xFFF4 0x60).params.dmemBytes <
        (tablesAt 0xFFF4 0x60).dtab.toNat + 8 * (tablesAt 0xFFF4 0x60).dcnt.toNat) ∧
    ((tablesAt 0xFFF0 0xFFF4).dtab.toNat + 8 * (tablesAt 0xFFF0 0xFFF4).dcnt.toNat ≤
        (tablesAt 0xFFF0 0xFFF4).params.dmemBytes ∧
      (tablesAt 0xFFF0 0xFFF4).params.dmemBytes <
        (tablesAt 0xFFF0 0xFFF4).dtab2.toNat + 8 * (tablesAt 0xFFF0 0xFFF4).dcnt.toNat) ∧
    (DcmpTablesOk (setsAt 0xFFFE 0xA0) ∧ 0 < (setsAt 0xFFFE 0xA0).dcnt.toNat ∧
      cmpLen1 (setsAt 0xFFFE 0xA0) 0 = cmpLen2 (setsAt 0xFFFE 0xA0) 0 ∧ 0 < cmpLen1 (setsAt 0xFFFE 0xA0) 0 ∧
      (setsAt 0xFFFE 0xA0).params.dmemBytes < cmpAddr1 (setsAt 0xFFFE 0xA0) 0 + cmpLen1 (setsAt 0xFFFE 0xA0) 0) ∧
    (DcmpTablesOk (setsAt 0xFFFD 0xFFFE) ∧ cmpLen1 (setsAt 0xFFFD 0xFFFE) 0 = cmpLen2 (setsAt 0xFFFD 0xFFFE) 0 ∧
      cmpAddr1 (setsAt 0xFFFD 0xFFFE) 0 + cmpLen1 (setsAt 0xFFFD 0xFFFE) 0 ≤ (setsAt 0xFFFD 0xFFFE).params.dmemBytes ∧
      (setsAt 0xFFFD 0xFFFE).params.dmemBytes <
        cmpAddr2 (setsAt 0xFFFD 0xFFFE) 0 + cmpLen1 (setsAt 0xFFFD 0xFFFE) 0) := by
  unfold DcmpTablesOk
  constructorm* _ ∧ _
  all_goals decide +kernel

theorem witness_DcmpTwiceGivesTheSameVerdict :
    exec (.dcmp 1) (twoSets 6 3) = .next (after (.dcmp 1) (twoSets 6 3)) ∧
    (after (.dcmp 1) (twoSets 6 3)).pc = (twoSets 6 3).pc + 4 ∧ (1 : AReg) ≠ 0 ∧ (2 : AReg) ≠ 0 :=
  ⟨rfl, by decide +kernel, by decide, by decide⟩

/-! ### Witnesses for the host -/

theorem witness_StartBeginsARunAtEntry :
    (3 < 4 ∧ (0x00000003 : Word).getLsbD 0 = true ∧ (0x00000003 : Word).getLsbD 2 = false) ∧
    State.reset.run = false ∧ running.run = true := by decide

theorem witness_HostWritesWhileRunningAreDiscarded : running.run = true ∧ 4 ≤ 0x020 ∧ 4 ≤ 4 := by decide

theorem witness_HostReadsThroughTheWindows :
    State.reset.params.legal ∧ 0x00 / 4 = (Csr.number .ctrl).toNat ∧ 0x3B / 4 = (Csr.number .dtab2).toNat ∧
    (0x3C ≤ 0x3C ∧ 0x3C < 0x10000) ∧ (0x3C ≤ 0xFFFF ∧ 0xFFFF < 0x10000) ∧
    (0x10000 / 4 = 0x4000 + 0 ∧ 0 < State.reset.params.imemWords ∧ State.reset.run = false) ∧
    (0x1FFFF / 4 = 0x4000 + 0x3FFF ∧ 0x3FFF < 0x4000 ∧ State.reset.params.imemWords ≤ 0x3FFF) ∧
    (0x20000 ≤ 0x20000 ∧ 0xFFFFF < 0x100000) ∧
    (0x100000 / 4 * 4 = 0x100000 + 0 ∧ 0 < State.reset.params.dmemBytes) ∧
    (0x1FFFFF / 4 * 4 = 0x100000 + 0xFFFFC ∧ 0xFFFFC < 0x100000 ∧ State.reset.params.dmemBytes ≤ 0xFFFFC) ∧
    0x200000 ≤ 0x200000 := by decide

theorem witness_HostWritesThroughTheWindows :
    State.reset.params.legal ∧ State.reset.run = false ∧
    (0x10FFC / 4 = 0x4000 + 1023 ∧ 1023 < State.reset.params.imemWords) ∧
    (0x10FFFF / 4 * 4 = 0x100000 + 0xFFFC ∧ 0xFFFC < State.reset.params.dmemBytes) ∧
    (0x020 / 4 = (Csr.number .nts).toNat ∧ Csr.programWritable .nts = true) ∧
    (0x038 / 4 = (Csr.number .dtab2).toNat ∧ Csr.programWritable .dtab2 = true) ∧
    (0x11000 / 4 = 0x4000 + 1024 ∧ State.reset.params.imemWords ≤ 1024) ∧
    (0x110000 / 4 * 4 = 0x100000 + 0x10000 ∧ State.reset.params.dmemBytes ≤ 0x10000) ∧
    (0x003 / 4 = 0 ∧ (0x00000002 : Word).getLsbD 0 = false ∧ (0x00000002 : Word).getLsbD 2 = false) ∧
    0x00B / 4 = 2 ∧ 0x004 / 4 = 1 ∧ 0x00C / 4 = 3 ∧ (4 ≤ 0x010 / 4 ∧ 0x01F / 4 ≤ 7) ∧
    (0x3C ≤ 0x3C ∧ 0xFFFF < 0x10000) ∧ (0x20000 ≤ 0x20000 ∧ 0xFFFFF < 0x100000) ∧ 0x200000 ≤ 0x200000 := by decide

/-- A running state about to store a word at 0x200, and one about to load it. -/
theorem witness_SoftResetKeepsMemory :
    (0 < 4 ∧ (0x00000005 : Word).getLsbD 2 = true) ∧ State.reset.run = false ∧
    (program [0x0C000000]).fetch = .error ⟨.illegalInstruction, 0x0C000000⟩ ∧
    ((program [0x31A00000]).fetch = .ok (.ldw 3 2 0) ∧ WritesDmem (.ldw 3 2 0) = false) ∧
    ((program [0x34A00000]).fetch = .ok (.stw 1 2 0) ∧
      ∀ b ∈ (program [0x34A00000]).writtenBlocks (.stw 1 2 0), ¬ (b.1 ≤ 4 ∧ 4 < b.1 + b.2)) := by decide

theorem witness_IrqFollowsDoneAndFault :
    State.reset.run = false ∧ (0x00000006 : Word).getLsbD 1 = true ∧ (0x00000006 : Word).getLsbD 2 = true ∧
    (0x00000001 : Word).getLsbD 0 = true ∧ (0x00000001 : Word).getLsbD 1 = false := by decide

end Sys2Proof.Tests
end

namespace Sys2Proof.Machine

/-! ### The scalar register file (10_state.md R17) -/

/-- A write to A0 is discarded: it leaves the whole state as it was, not the registers alone (R17). -/
@[simp] theorem State.writeA_zero (s : State) (x : Word) : s.writeA 0 x = s := rfl

/-- Settles O18: A0 reads 0, a write to A0 changes nothing, and a read after a write sees it at its own register only. -/
theorem a0ReadsZeroAndDiscardsWrites : Obligations.A0ReadsZeroAndDiscardsWrites := by
  intro s r q x
  exact ⟨s.readA_zero, s.writeA_zero x, s.readA_writeA r q x⟩

end Sys2Proof.Machine

namespace Sys2Proof.Machine

/-! ### Transpose primitives: each output byte (41_transpose.md R98 to R103)

A tile of a width form is its bytes `16h + 4j + b`: half h, doubleword j, byte b. -/

/-- Two tiles of one width form are equal when their bytes agree in each half the form computes (R20). -/
theorem tile_eq_of_byte_eq {w : Width} {t u : Tile} (ht : HighZero w t) (hu : HighZero w u)
    (heq : ∀ h j b, HasHalf w h → j < 4 → b < 4 → t.byte (16 * h + 4 * j + b) = u.byte (16 * h + 4 * j + b)) :
    t = u := by
  have half : ∀ h k, HasHalf w h → k < 16 → t.byte (16 * h + k) = u.byte (16 * h + k) := by
    intro h k hh hk
    have := heq h (k / 4) (k % 4) hh (by omega) (by omega)
    rwa [Nat.add_assoc, Nat.div_add_mod] at this
  apply Tile.ext_byte
  intro k hk
  by_cases hlow : k < 16
  · simpa using half 0 k (.inl rfl) hlow
  · cases w with
    | x => rw [ht rfl k (by omega), hu rfl k (by omega)]
    | y =>
      have := half 1 (k - 16) (.inr ⟨rfl, rfl⟩) (by omega)
      rwa [Nat.mul_one, Nat.add_sub_cancel' (by omega)] at this

/-- Every byte of a doubleword width form is the byte of the operation's doubleword (R20, R51). -/
theorem byte_byHalvesD (w : Width) (f : Nat → Nat → Word) (h j b : Nat) (hh : HasHalf w h) (hj : j < 4) (hb : b < 4) :
    (Tile.byHalvesD w f).byte (16 * h + 4 * j + b) = wordByte (f h j) b := by
  rw [← dword_byHalvesD w f h j hh hj, Tile.wordByte_dword _ _ _ hb]
  congr 1
  omega

theorem selector_lt (imm8 : BitVec 8) (k : Nat) : selector imm8 k < 4 := by
  rw [selector_eq]
  omega

/-- Doubleword j of SHUFD comes from the first source for j = 0, 1 and from the second for j = 2, 3 (R100). -/
theorem byte_shufdTile (w : Width) (t1 t2 : Tile) (imm8 : BitVec 8) (h j b : Nat) (hh : HasHalf w h) (hj : j < 4)
    (hb : b < 4) :
    (shufdTile w t1 t2 imm8).byte (16 * h + 4 * j + b) =
      (if j < 2 then t1 else t2).byte (16 * h + 4 * selector imm8 j + b) := by
  rw [shufdTile, byte_byHalvesD w _ h j b hh hj hb, Tile.wordByte_dword _ _ _ hb]
  congr 1
  omega

/-- TR4B exchanges the doubleword and the byte (R99). -/
theorem byte_tr4bTile (w : Width) (t : Tile) (h j b : Nat) (hh : HasHalf w h) (hj : j < 4) (hb : b < 4) :
    (tr4bTile w t).byte (16 * h + 4 * j + b) = t.byte (16 * h + 4 * b + j) := by
  rw [tr4bTile, Nat.add_assoc, byte_byHalves w _ h _ hh (by omega), permP_eq b j hb hj, Nat.add_assoc]

/-- TR4D exchanges the row and the doubleword (R101). -/
theorem byte_tr4dTile (w : Width) (r : Nat → Tile) (h i j b : Nat) (hh : HasHalf w h) (hi : i < 4) (hb : b < 4) :
    (tr4dTile w r j).byte (16 * h + 4 * i + b) = (r i).byte (16 * h + 4 * j + b) := by
  rw [tr4dTile, byte_byHalvesD w _ h i b hh hi hb, Tile.wordByte_dword _ _ _ hb]
  congr 1
  omega

/-- Quadword q of output k of TR8B is column `k + 4q`: its doubleword `2q + p` holds rows `4p .. 4p+3` (R103). -/
theorem byte_tr8bTile (w : Width) (r : Nat → Tile) (h p q k b : Nat) (hh : HasHalf w h) (hp : p < 2) (hq : q < 2)
    (hb : b < 4) :
    (tr8bTile w r k).byte (16 * h + 4 * (2 * q + p) + b) = tr8bMatrix r h (4 * p + b) (k + 4 * q) := by
  rw [tr8bTile, Nat.add_assoc, byte_byHalves w _ h _ hh (by omega)]
  obtain rfl | rfl : q = 0 ∨ q = 1 := by omega
  · rw [if_pos (by omega)]
    congr 1
    omega
  · rw [if_neg (by omega)]
    congr 1
    omega

/-- Two shuffle passes make column j of TR4D, when the second pass takes from each first shuffle one doubleword that came
from either row, and the first pass put doubleword j there (R102). -/
theorem shufdTile_shufdTile_eq_tr4dTile (w : Width) (r : Nat → Tile) (first second : BitVec 8) (j : Nat)
    (hsel : ∀ i, i < 4 →
      selector first (selector second i) = j ∧ (selector second i < 2 ↔ i % 2 = 0)) :
    shufdTile w (shufdTile w (r 0) (r 1) first) (shufdTile w (r 2) (r 3) first) second = tr4dTile w r j := by
  refine tile_eq_of_byte_eq (highZero_byHalvesD w _) (highZero_byHalvesD w _) fun h i b hh hi hb => ?_
  obtain ⟨hj, hrow⟩ := hsel i hi
  have hfirst := fun t1 t2 => byte_shufdTile w t1 t2 first h (selector second i) b hh (selector_lt second i) hb
  rw [byte_shufdTile w _ _ second h i b hh hi hb, byte_tr4dTile w r h i j b hh hi hb, apply_ite (Tile.byte · _),
    hfirst, hfirst, hj]
  obtain rfl | rfl | rfl | rfl : i = 0 ∨ i = 1 ∨ i = 2 ∨ i = 3 := by omega
  all_goals simp [hrow]

/-- Splitting rows 4p to 4p+3 of TR8B's matrix by the low (q = 0) or the high (q = 1) halves of its rows and transposing
the bytes leaves column `4q + k` in doubleword k (R104). -/
theorem byte_tr4bTile_shufdTile (w : Width) (r : Nat → Tile) (imm8 : BitVec 8) (h p q k b : Nat) (hh : HasHalf w h)
    (hk : k < 4) (hb : b < 4) (hsel : ∀ i, i < 4 → selector imm8 i = 2 * (i % 2) + q) :
    (tr4bTile w (shufdTile w (r (2 * p)) (r (2 * p + 1)) imm8)).byte (16 * h + 4 * k + b) =
      tr8bMatrix r h (4 * p + b) (k + 4 * q) := by
  rw [byte_tr4bTile w _ h k b hh hk hb, byte_shufdTile w _ _ imm8 h b k hh hb hk, hsel b hb, tr8bMatrix]
  have hrow : (if b < 2 then r (2 * p) else r (2 * p + 1)) = r ((4 * p + b) / 2) := by
    split
    · congr 1; omega
    · congr 1; omega
  rw [hrow]
  congr 1
  omega

/-- One doubleword transpose across the four quadrants, in the order L0, L1, H0, H1, makes output k of TR8B (R104). -/
theorem tr4dTile_quadrants_eq_tr8bTile (w : Width) (r m : Nat → Tile) (low high : BitVec 8) (k : Nat) (hk : k < 4)
    (hlow : ∀ i, i < 4 → selector low i = 2 * (i % 2) + 0) (hhigh : ∀ i, i < 4 → selector high i = 2 * (i % 2) + 1)
    (m0 : m 0 = tr4bTile w (shufdTile w (r 0) (r 1) low)) (m1 : m 1 = tr4bTile w (shufdTile w (r 2) (r 3) low))
    (m2 : m 2 = tr4bTile w (shufdTile w (r 0) (r 1) high)) (m3 : m 3 = tr4bTile w (shufdTile w (r 2) (r 3) high)) :
    tr4dTile w m k = tr8bTile w r k := by
  refine tile_eq_of_byte_eq (highZero_byHalvesD w _) (highZero_byHalves w _) fun h i b hh hi hb => ?_
  rw [byte_tr4dTile w m h i k b hh hi hb]
  have quadrant := fun p q imm8 hsel => byte_tr4bTile_shufdTile w r imm8 h p q k b hh hk hb hsel
  have output := fun p q hp hq => byte_tr8bTile w r h p q k b hh hp hq hb
  obtain rfl | rfl | rfl | rfl : i = 0 ∨ i = 1 ∨ i = 2 ∨ i = 3 := by omega
  · rw [m0]; exact (quadrant 0 0 low hlow).trans (output 0 0 (by omega) (by omega)).symm
  · rw [m1]; exact (quadrant 1 0 low hlow).trans (output 1 0 (by omega) (by omega)).symm
  · rw [m2]; exact (quadrant 0 1 high hhigh).trans (output 0 1 (by omega) (by omega)).symm
  · rw [m3]; exact (quadrant 1 1 high hhigh).trans (output 1 1 (by omega) (by omega)).symm

/-! ### Running the transpose primitives -/

theorem execAll_cons {i : Instr} {s t : State} (h : exec i s = .next t) (is : List Instr) :
    execAll (i :: is) s = execAll is t := by
  simp only [execAll, h]

/-- A sequence goes on from the state its first part leaves. -/
theorem execAll_append {is : List Instr} {s t : State} (h : execAll is s = .next t) (js : List Instr) :
    execAll (is ++ js) s = execAll js t := by
  induction is generalizing s with
  | nil =>
    obtain rfl : s = t := Host.Outcome.next.inj h
    rfl
  | cons i is ih =>
    rw [List.cons_append]
    cases hi : exec i s with
    | next u =>
      rw [execAll_cons hi] at h ⊢
      exact ih h
    | fault f => simp [execAll, hi] at h
    | refused f => simp [execAll, hi] at h

theorem exec_tr4b (w : Width) (v0 v1 : VReg) (s : State) :
    exec (.tr4b w v0 v1) s = .next (s.writeV v0 (tr4bTile w (s.readV v1))).advance := rfl

theorem pairwiseDistinct_iff_nodup (v0 v1 v2 v3 : VReg) :
    pairwiseDistinct v0 v1 v2 v3 = true ↔ [v0, v1, v2, v3].Nodup := by
  simp [pairwiseDistinct, and_assoc]

/-- Four distinct registers get four tiles, and no other register changes. -/
theorem readV_writeRows_advance {v0 v1 v2 v3 : VReg} (f : Nat → Tile) (s : State)
    (h : pairwiseDistinct v0 v1 v2 v3 = true) {u : State} (hu : u = (s.writeRows v0 v1 v2 v3 f).advance) :
    u.readV v0 = f 0 ∧ u.readV v1 = f 1 ∧ u.readV v2 = f 2 ∧ u.readV v3 = f 3 ∧ SameVExcept [v0, v1, v2, v3] s u := by
  have row := fun i hi => s.readV_writeRows v0 v1 v2 v3 f i hi h
  subst hu
  simp only [SameVExcept, State.readV_advance]
  exact ⟨row 0 (by omega), row 1 (by omega), row 2 (by omega), row 3 (by omega),
    fun q hq => s.readV_writeRows_other v0 v1 v2 v3 q f hq⟩

/-- TR4D leaves the four columns in its registers, and no other register changes (R101). -/
theorem exec_tr4d_of_distinct (w : Width) {v0 v1 v2 v3 : VReg} (s : State) (h : pairwiseDistinct v0 v1 v2 v3 = true) :
    ∃ u, exec (.tr4d w v0 v1 v2 v3) s = .next u ∧
      u.readV v0 = tr4dTile w (s.rows v0 v1 v2 v3) 0 ∧ u.readV v1 = tr4dTile w (s.rows v0 v1 v2 v3) 1 ∧
      u.readV v2 = tr4dTile w (s.rows v0 v1 v2 v3) 2 ∧ u.readV v3 = tr4dTile w (s.rows v0 v1 v2 v3) 3 ∧
      SameVExcept [v0, v1, v2, v3] s u :=
  ⟨_, s.ifLegal_of_wf (.tr4d w v0 v1 v2 v3) _ h, readV_writeRows_advance _ s h rfl⟩

/-- TR8B leaves its four outputs in its registers, and no other register changes (R103). -/
theorem exec_tr8b_of_distinct (w : Width) {v0 v1 v2 v3 : VReg} (s : State) (h : pairwiseDistinct v0 v1 v2 v3 = true) :
    ∃ u, exec (.tr8b w v0 v1 v2 v3) s = .next u ∧
      u.readV v0 = tr8bTile w (s.rows v0 v1 v2 v3) 0 ∧ u.readV v1 = tr8bTile w (s.rows v0 v1 v2 v3) 1 ∧
      u.readV v2 = tr8bTile w (s.rows v0 v1 v2 v3) 2 ∧ u.readV v3 = tr8bTile w (s.rows v0 v1 v2 v3) 3 ∧
      SameVExcept [v0, v1, v2, v3] s u :=
  ⟨_, s.ifLegal_of_wf (.tr8b w v0 v1 v2 v3) _ h, readV_writeRows_advance _ s h rfl⟩

/-- Four shuffles, two of the sources a and b and two of c and d, each pair under the selectors m and n: a pass of R102 and
the split of R104. -/
def shufflePass (w : Width) (d0 d1 d2 d3 a b c d : VReg) (m n : BitVec 8) : List Instr :=
  [.shufd w d0 a b m, .shufd w d1 a b n, .shufd w d2 c d m, .shufd w d3 c d n]

/-- A shuffle pass whose registers are distinct leaves its four shuffles of the sources, and no other register changes. -/
theorem execAll_shufflePass (w : Width) {d0 d1 d2 d3 a b c d : VReg} (m n : BitVec 8) (s : State)
    (hn : [a, b, c, d, d0, d1, d2, d3].Nodup) :
    ∃ t, execAll (shufflePass w d0 d1 d2 d3 a b c d m n) s = .next t ∧
      t.readV d0 = shufdTile w (s.readV a) (s.readV b) m ∧ t.readV d1 = shufdTile w (s.readV a) (s.readV b) n ∧
      t.readV d2 = shufdTile w (s.readV c) (s.readV d) m ∧ t.readV d3 = shufdTile w (s.readV c) (s.readV d) n ∧
      SameVExcept [d0, d1, d2, d3] s t := by
  simp only [List.nodup_cons, List.mem_cons, List.not_mem_nil, or_false, not_or] at hn
  refine ⟨_, rfl, ?_, ?_, ?_, ?_, fun q hq => ?_⟩
  iterate 4 · simp [State.readV_writeV, hn]
  · simp only [List.mem_cons, List.not_mem_nil, or_false, not_or] at hq
    simp [State.readV_writeV, hq]

/-- TR4B in place on each register of a list transposes those registers, and no other changes. -/
theorem execAll_tr4b_inPlace (w : Width) (vs : List VReg) (s : State) (hn : vs.Nodup) :
    ∃ t, execAll (vs.map fun v => .tr4b w v v) s = .next t ∧
      (∀ v ∈ vs, t.readV v = tr4bTile w (s.readV v)) ∧ SameVExcept vs s t := by
  induction vs generalizing s with
  | nil => exact ⟨s, rfl, by simp, fun _ _ => rfl⟩
  | cons v vs ih =>
    obtain ⟨hv, hvs⟩ := List.nodup_cons.1 hn
    obtain ⟨t, hrun, hin, hout⟩ := ih (s.writeV v (tr4bTile w (s.readV v))).advance hvs
    refine ⟨t, (execAll_cons (exec_tr4b w v v s) _).trans hrun, fun q hq => ?_, fun q hq => ?_⟩
    · rcases List.mem_cons.1 hq with rfl | hq
      · rw [hout q hv, State.readV_advance, State.readV_writeV, if_pos rfl]
      · have hne : q ≠ v := fun h => hv (h ▸ hq)
        rw [hin q hq, State.readV_advance, State.readV_writeV, if_neg hne]
    · obtain ⟨hne, hq⟩ := not_or.1 (mt List.mem_cons.2 hq)
      rw [hout q hq, State.readV_advance, State.readV_writeV, if_neg hne]

/-! ### The decompositions (R102, R104) -/

/-- Settles O43: the first pass puts two doublewords of each row of a pair side by side, the second picks from them the
four that make a column. -/
theorem tr4dIsTwoShufflePasses : Obligations.Tr4dIsTwoShufflePasses := by
  intro w w0 w1 w2 w3 x0 x1 x2 x3 s hn
  have hswap : [x0, x2, x1, x3].Perm [x0, x1, x2, x3] := (List.Perm.swap x1 x2 [x3]).cons x0
  have hsecond : [x0, x2, x1, x3, w0, w1, w2, w3].Nodup :=
    ((hswap.append_right [w0, w1, w2, w3]).trans List.perm_append_comm).nodup_iff.2 hn
  obtain ⟨hrows, -, hdisjoint⟩ := (List.nodup_append' (l₁ := [w0, w1, w2, w3]) (l₂ := [x0, x1, x2, x3])).1 hn
  have hw := (pairwiseDistinct_iff_nodup w0 w1 w2 w3).2 hrows
  obtain ⟨s1, hrun1, e0, e1, e2, e3, -⟩ := execAll_shufflePass w 0x44 0xEE s hn
  obtain ⟨t, hrun2, f0, f1, f2, f3, -⟩ := execAll_shufflePass w 0x88 0xDD s1 hsecond
  obtain ⟨u, hrun, g0, g1, g2, g3, kept⟩ := exec_tr4d_of_distinct w s hw
  have column := shufdTile_shufdTile_eq_tr4dTile w (s.rows w0 w1 w2 w3)
  have scratch : ∀ q ∈ [x0, x1, x2, x3], u.readV q = s.readV q := fun q hx => kept q fun hq => hdisjoint hq hx
  refine ⟨t, u, (execAll_append hrun1 _).trans hrun2, hrun, ?_, ?_, ?_, ?_,
    scratch x0 (by simp), scratch x1 (by simp), scratch x2 (by simp), scratch x3 (by simp)⟩
  · rw [f0, e0, e2, g0]; exact column 0x44 0x88 0 (by decide)
  · rw [f1, e0, e2, g1]; exact column 0x44 0xDD 1 (by decide)
  · rw [f2, e1, e3, g2]; exact column 0xEE 0x88 2 (by decide)
  · rw [f3, e1, e3, g3]; exact column 0xEE 0xDD 3 (by decide)

/-- Settles O44: the split and the byte transposes make the four quadrants of the matrix, one channel's four rows in each
doubleword; the doubleword transpose joins each channel's halves. -/
theorem tr8bIsBuiltFromPrimitives : Obligations.Tr8bIsBuiltFromPrimitives := by
  intro w r0 r1 r2 r3 l0 h0 l1 h1 s hn
  obtain ⟨hrows, hquads, -⟩ := (List.nodup_append' (l₁ := [r0, r1, r2, r3]) (l₂ := [l0, h0, l1, h1])).1 hn
  have hr := (pairwiseDistinct_iff_nodup r0 r1 r2 r3).2 hrows
  have hl : pairwiseDistinct l0 l1 h0 h1 = true := (pairwiseDistinct_iff_nodup ..).2 (by clear hn; grind)
  obtain ⟨s1, hrun1, e0, e1, e2, e3, -⟩ := execAll_shufflePass w 0x88 0xDD s hn
  obtain ⟨s2, hrun2, tr4b_of_mem, -⟩ := execAll_tr4b_inPlace w [l0, h0, l1, h1] s1 hquads
  obtain ⟨t, hrun3, f0, f1, f2, f3, -⟩ := exec_tr4d_of_distinct w s2 hl
  obtain ⟨u, hrun, g0, g1, g2, g3, -⟩ := exec_tr8b_of_distinct w s hr
  have output : ∀ k, k < 4 → tr4dTile w (s2.rows l0 l1 h0 h1) k = tr8bTile w (s.rows r0 r1 r2 r3) k := by
    intro k hk
    apply tr4dTile_quadrants_eq_tr8bTile w _ _ 0x88 0xDD k hk (by decide) (by decide)
    · exact (tr4b_of_mem l0 (by simp)).trans (congrArg _ e0)
    · exact (tr4b_of_mem l1 (by simp)).trans (congrArg _ e2)
    · exact (tr4b_of_mem h0 (by simp)).trans (congrArg _ e1)
    · exact (tr4b_of_mem h1 (by simp)).trans (congrArg _ e3)
  refine ⟨t, u, (execAll_append hrun1 _).trans ((execAll_append hrun2 _).trans (execAll_cons hrun3 [])), hrun,
    ?_, ?_, ?_, ?_⟩
  · rw [f0, g0, output 0 (by omega)]
  · rw [f1, g1, output 1 (by omega)]
  · rw [f2, g2, output 2 (by omega)]
  · rw [f3, g3, output 3 (by omega)]

end Sys2Proof.Machine

namespace Sys2Proof.Machine

/-! ### A step of the sequencer with no turn pending (60_exceptions.md R137) -/

theorem step_eq_exec_of_fetch {s : State} {i : Instr} (ht : s.turns = []) (hrun : s.run = true)
    (hf : s.fetch = .ok i) : step s = exec i s :=
  (step_of_no_turn s ht).trans (sequencerStep_of_fetch s i hrun hf)

/-- A running step whose fetch fails takes the fault of the fetch (R137, R141). -/
theorem step_takes_fetch_fault {s : State} {trap : Trap} (ht : s.turns = []) (hrun : s.run = true)
    (hf : s.fetch = .error trap) : ∃ t, step s = .next t ∧ FaultTaken trap s t :=
  ⟨s.raise trap, (step_of_no_turn s ht).trans (sequencerStep_of_trap s trap hrun hf), faultTaken_raise s trap⟩

/-- Settles O7: each of the three outcomes of fetch (out of range, decoded, illegal) determines the step. -/
theorem fetchOutsideImemRaisesFetchRange : Obligations.FetchOutsideImemRaisesFetchRange := by
  intro s ht hrun
  refine ⟨fun hout => ?_, fun hin => ⟨fun i hd => ?_, fun e hd => ?_⟩⟩
  · exact step_takes_fetch_fault ht hrun (s.fetch_range hout)
  · exact step_eq_exec_of_fetch ht hrun (s.fetch_ok i hin hd)
  · exact step_takes_fetch_fault ht hrun (s.fetch_illegal e hin hd)

/-! ### The IRQ level (60_exceptions.md R146) -/

theorem State.irq_iff (s : State) : s.irq = true ↔ s.ie = true ∧ (s.done = true ∨ s.fault = true) := by
  simp [State.irq]

theorem State.irq_of_ie_false {s : State} (h : s.ie = false) : s.irq = false := by
  simp [State.irq, h]

theorem State.irq_of_no_done_no_fault {s : State} (hd : s.done = false) (hf : s.fault = false) : s.irq = false := by
  simp [State.irq, hd, hf]

/-- After a soft reset IE is 0 (R45). -/
@[simp] theorem State.softReset_irq (s : State) : s.softReset.irq = false := irq_of_ie_false rfl

/-- After a power-on reset IE is 0 (R45). -/
@[simp] theorem State.powerOnReset_irq (s : State) : s.powerOnReset.irq = false := irq_of_ie_false rfl

/-- START clears DONE and FAULT (R152). -/
@[simp] theorem State.start_irq (s : State) : s.start.irq = false := irq_of_no_done_no_fault rfl rfl

/-! ### Host writes of CTRL and STATUS (10_state.md R29, R30) -/

/-- CTRL takes a write at any time (R151). -/
theorem State.hostTurn_write_ctrl (s : State) (v : Word) : s.hostTurn (.write 0 v) = s.hostWriteCtrl v := by
  simp only [State.hostTurn, State.hostWrite, s.portTarget_csr 0 .ctrl rfl]

/-- STATUS takes a write while the sequencer is idle (R151). -/
theorem State.hostTurn_write_status (s : State) (v : Word) (h : s.run = false) :
    s.hostTurn (.write 4 v) = s.hostWriteStatus v := by
  simp [State.hostTurn, State.hostWrite, s.portTarget_csr 4 .status rfl, h, State.hostWriteCsr]

/-- Everything a host write of CTRL can do: a soft reset, a start of an idle sequencer, or a write of IE alone (R29). -/
theorem State.hostWriteCtrl_cases (s : State) (v : Word) :
    (v.getLsbD 2 = true ∧ s.hostWriteCtrl v = s.softReset) ∨
    (v.getLsbD 2 = false ∧ (v.getLsbD 0 = true ∧ s.run = false) ∧
      s.hostWriteCtrl v = { s with ie := v.getLsbD 1 }.start) ∨
    (v.getLsbD 2 = false ∧ ¬ (v.getLsbD 0 = true ∧ s.run = false) ∧
      s.hostWriteCtrl v = { s with ie := v.getLsbD 1 }) := by
  have hand : (v.getLsbD 0 && !s.run) = true ↔ v.getLsbD 0 = true ∧ s.run = false := by
    rw [Bool.and_eq_true, Bool.not_eq_true']
  unfold State.hostWriteCtrl
  by_cases hsrst : v.getLsbD 2 = true
  · exact .inl ⟨hsrst, if_pos hsrst⟩
  · rw [if_neg hsrst]
    by_cases hstart : v.getLsbD 0 = true ∧ s.run = false
    · exact .inr (.inl ⟨Bool.eq_false_of_not_eq_true hsrst, hstart, if_pos (hand.2 hstart)⟩)
    · exact .inr (.inr ⟨Bool.eq_false_of_not_eq_true hsrst, hstart, if_neg (mt hand.1 hstart)⟩)

theorem State.irq_hostWriteStatus_clear (s : State) {v : Word} (hdone : v.getLsbD 1 = true)
    (hfault : v.getLsbD 2 = true) : (s.hostWriteStatus v).irq = false := by
  apply irq_of_no_done_no_fault <;> simp [State.hostWriteStatus, hdone, hfault]

theorem State.irq_hostWriteCtrl_start (s : State) {v : Word} (hrun : s.run = false) (hstart : v.getLsbD 0 = true) :
    (s.hostWriteCtrl v).irq = false := by
  obtain ⟨-, hw⟩ | ⟨-, -, hw⟩ | ⟨-, hnot, -⟩ := s.hostWriteCtrl_cases v
  · rw [hw, softReset_irq]
  · rw [hw, start_irq]
  · exact absurd ⟨hstart, hrun⟩ hnot

theorem State.irq_hostWriteCtrl_ie_clear (s : State) {v : Word} (hie : v.getLsbD 1 = false) :
    (s.hostWriteCtrl v).irq = false := by
  obtain ⟨-, hw⟩ | ⟨-, -, hw⟩ | ⟨-, -, hw⟩ := s.hostWriteCtrl_cases v
  · rw [hw, softReset_irq]
  · rw [hw, start_irq]
  · rw [hw]; exact irq_of_ie_false hie

/-- Settles O60: each way to clear the level leaves IE at 0, or DONE and FAULT both at 0. -/
theorem irqFollowsDoneAndFault : Obligations.IrqFollowsDoneAndFault := by
  refine ⟨State.irq_iff, fun s v hrun hdone hfault => ?_, fun s v hrun hstart => ?_, fun s v hie => ?_, fun s => ?_⟩
  · rw [s.hostTurn_write_status v hrun]; exact s.irq_hostWriteStatus_clear hdone hfault
  · rw [s.hostTurn_write_ctrl v]; exact s.irq_hostWriteCtrl_start hrun hstart
  · rw [s.hostTurn_write_ctrl v]; exact s.irq_hostWriteCtrl_ie_clear hie
  · exact ⟨s.softReset_irq, s.powerOnReset_irq⟩

end Sys2Proof.Machine

/-! ## The statements of the model's encoding, steps, host port, instructions and demultiplexer

The proofs are worked through in the order in which they stand: side by side, next to the long kernel evaluations of
the tests, they take more threads than the check's memory limit admits. -/

section InOrder

set_option deprecated.oldSectionVars true

namespace Sys2Proof

open Laws.EncodeMatchesTable (encodeI_toNat encodeR_toNat encodeC_toNat encodeVM_toNat encodeVR_toNat)

/-! ### The fields of a word (30_encoding.md R68, R77)

A word is read and written as a number: the field of n bits from bit `lo` is `w / 2^lo % 2^n`. -/

theorem field_toNat (w : Word) (lo n : Nat) : (w.extractLsb' lo n).toNat = w.toNat / 2 ^ lo % 2 ^ n := by
  simp [BitVec.extractLsb'_toNat, Nat.shiftRight_eq_div_pow]

theorem field_eq_zero_iff {w : Word} {lo n : Nat} : w.extractLsb' lo n = 0 ↔ w.toNat / 2 ^ lo % 2 ^ n = 0 := by
  rw [← field_toNat, ← BitVec.toNat_inj]
  simp

theorem aregOf_eq_iff {b : BitVec 3} {r : AReg} : aregOf b = r ↔ b.toNat = r.val := Fin.ext_iff

theorem vregOf_eq_iff {b : BitVec 4} {r : VReg} : vregOf b = r ↔ b.toNat = r.val := Fin.ext_iff

theorem laneOf_eq_iff {b : BitVec 3} {l : Fin 8} : laneOf b = l ↔ b.toNat = l.val := Fin.ext_iff

theorem widthOf_eq_iff {b : BitVec 1} {w : Width} : widthOf b = w ↔ b = w.bits := by
  cases w <;> revert b <;> decide

theorem elemSizeOf_eq_iff {b : BitVec 1} {sz : ElemSize} : elemSizeOf b = sz ↔ b = sz.bits := by
  cases sz <;> revert b <;> decide

/-- A mode field names a mode exactly where it is that mode's field (R75). -/
theorem modeOf_eq_some_iff {b : BitVec 3} {m : DmxMode} : modeOf b = some m ↔ b = m.bits := by
  cases m <;> revert b <;> decide

/-- A CSR number names a CSR exactly where it is that CSR's number (10_state.md R28). -/
theorem csrOf_eq_some_iff {b : BitVec 8} {c : Csr} : csrOf b = some c ↔ b = c.number := by
  constructor
  · intro h
    unfold csrOf at h
    split at h
    case h_16 => cases h
    all_goals
      rename_i hb
      cases h
      exact BitVec.eq_of_toNat_eq hb
  · rintro rfl
    cases c <;> rfl

theorem zeroField_eq_ok_iff {n : Nat} {b : BitVec n} {k : Except DecodeError Instr} {i : Instr} :
    zeroField b k = .ok i ↔ b = 0 ∧ k = .ok i := by
  by_cases h : b = 0
  · rw [zeroField, if_pos h, and_iff_right h]
  · rw [zeroField, if_neg h]
    simp only [h, false_and, reduceCtorEq]

/-! ### Each format is its fields (R69 to R75)

A word is the encoding of its operands exactly where every field, the must-be-zero ones too, has its value. -/

theorem eq_encodeN_iff {w : Word} {op : BitVec 6} :
    w = op ++ 0#26 ↔ w.extractLsb' 26 6 = op ∧ w.extractLsb' 0 26 = 0 := by
  have hw := w.isLt
  have hop := op.isLt
  simp only [← BitVec.toNat_inj, field_toNat, append_toNat, BitVec.ofNat_eq_ofNat, BitVec.toNat_ofNat]
  omega

theorem eq_encodeI_iff {w : Word} {op : BitVec 6} {ra rb : AReg} {imm16 : BitVec 16} :
    w = encodeI op ra rb imm16 ↔ w.extractLsb' 26 6 = op ∧ aregOf (w.extractLsb' 23 3) = ra ∧
      aregOf (w.extractLsb' 20 3) = rb ∧ w.extractLsb' 16 4 = 0 ∧ w.extractLsb' 0 16 = imm16 := by
  have hw := w.isLt
  have hop := op.isLt
  have hra := ra.isLt
  have hrb := rb.isLt
  have himm := imm16.isLt
  simp only [← BitVec.toNat_inj, aregOf_eq_iff, field_toNat, encodeI_toNat, BitVec.ofNat_eq_ofNat, BitVec.toNat_ofNat]
  omega

theorem eq_encodeVM_iff {w : Word} {op : BitVec 6} {b : BitVec 1} {v0 : VReg} {ra : AReg} {lane : Fin 8}
    {imm12 : BitVec 12} :
    w = encodeVM op b v0 ra lane imm12 ↔ w.extractLsb' 26 6 = op ∧ w.extractLsb' 25 1 = b ∧
      vregOf (w.extractLsb' 21 4) = v0 ∧ aregOf (w.extractLsb' 18 3) = ra ∧ laneOf (w.extractLsb' 15 3) = lane ∧
      w.extractLsb' 12 3 = 0 ∧ w.extractLsb' 0 12 = imm12 := by
  have hw := w.isLt
  have hop := op.isLt
  have hb := b.isLt
  have hv0 := v0.isLt
  have hra := ra.isLt
  have hlane := lane.isLt
  have himm := imm12.isLt
  simp only [← BitVec.toNat_inj, aregOf_eq_iff, vregOf_eq_iff, laneOf_eq_iff, field_toNat, encodeVM_toNat,
    BitVec.ofNat_eq_ofNat, BitVec.toNat_ofNat]
  omega

theorem eq_encodeVR_iff {w : Word} {op : BitVec 6} {b : Width} {v0 v1 v2 v3 : VReg} {imm8 : BitVec 8} :
    w = encodeVR op b v0 v1 v2 v3 imm8 ↔ w.extractLsb' 26 6 = op ∧ w.extractLsb' 25 1 = b.bits ∧
      vregOf (w.extractLsb' 21 4) = v0 ∧ vregOf (w.extractLsb' 17 4) = v1 ∧ vregOf (w.extractLsb' 13 4) = v2 ∧
      vregOf (w.extractLsb' 9 4) = v3 ∧ w.extractLsb' 8 1 = 0 ∧ w.extractLsb' 0 8 = imm8 := by
  have hw := w.isLt
  have hop := op.isLt
  have hb := b.bits.isLt
  have hv0 := v0.isLt
  have hv1 := v1.isLt
  have hv2 := v2.isLt
  have hv3 := v3.isLt
  have himm := imm8.isLt
  simp only [← BitVec.toNat_inj, vregOf_eq_iff, field_toNat, encodeVR_toNat, BitVec.ofNat_eq_ofNat,
    BitVec.toNat_ofNat]
  omega

theorem eq_encodeR_iff {w : Word} {op : BitVec 6} {ra rb rc : AReg} :
    w = encodeR op ra rb rc ↔ w.extractLsb' 26 6 = op ∧ aregOf (w.extractLsb' 23 3) = ra ∧
      aregOf (w.extractLsb' 20 3) = rb ∧ aregOf (w.extractLsb' 17 3) = rc ∧ w.extractLsb' 0 17 = 0 := by
  have hw := w.isLt
  have hop := op.isLt
  have hra := ra.isLt
  have hrb := rb.isLt
  have hrc := rc.isLt
  simp only [← BitVec.toNat_inj, aregOf_eq_iff, field_toNat, encodeR_toNat, BitVec.ofNat_eq_ofNat, BitVec.toNat_ofNat]
  omega

theorem eq_encodeC_iff {w : Word} {op : BitVec 6} {ra : AReg} {csr : Csr} :
    w = encodeC op ra csr ↔ w.extractLsb' 26 6 = op ∧ aregOf (w.extractLsb' 23 3) = ra ∧
      w.extractLsb' 8 15 = 0 ∧ csrOf (w.extractLsb' 0 8) = some csr := by
  have hw := w.isLt
  have hop := op.isLt
  have hra := ra.isLt
  have hcsr := csr.number.isLt
  rw [csrOf_eq_some_iff]
  simp only [← BitVec.toNat_inj, aregOf_eq_iff, field_toNat, encodeC_toNat, BitVec.ofNat_eq_ofNat, BitVec.toNat_ofNat]
  omega

theorem eq_encodeD_iff {w : Word} {b : Width} {mode : DmxMode} :
    w = encode (.dmx b mode) ↔ w.extractLsb' 26 6 = 0x20 ∧ widthOf (w.extractLsb' 25 1) = b ∧
      modeOf (w.extractLsb' 22 3) = some mode ∧ w.extractLsb' 0 22 = 0 := by
  have hw := w.isLt
  have hb := b.bits.isLt
  have hmode := mode.bits.isLt
  rw [modeOf_eq_some_iff, widthOf_eq_iff, encode]
  simp only [← BitVec.toNat_inj, field_toNat, append_toNat, BitVec.ofNat_eq_ofNat, BitVec.toNat_ofNat]
  omega

/-! ### Must-be-zero fields in parts

A format with fewer operands has one zero field where the full format has several. -/

theorem field_zero_split (w : Word) (lo m n : Nat) :
    w.extractLsb' lo (m + n) = 0 ↔ w.extractLsb' lo m = 0 ∧ w.extractLsb' (lo + m) n = 0 := by
  simp only [field_eq_zero_iff, Nat.pow_add, Nat.mod_mul, ← Nat.div_div_eq_div_mul]
  simp

theorem aregOf_eq_zero_iff {b : BitVec 3} : aregOf b = 0 ↔ b = 0 := by revert b; decide

theorem vregOf_eq_zero_iff {b : BitVec 4} : vregOf b = 0 ↔ b = 0 := by revert b; decide

theorem laneOf_eq_zero_iff {b : BitVec 3} : laneOf b = 0 ↔ b = 0 := by revert b; decide

/-- Bits 16:0 of format VR are the registers v2 and v3, a zero bit and imm8 (R74). -/
theorem vrTail_eq_zero_iff {w : Word} : w.extractLsb' 0 17 = 0 ↔
    vregOf (w.extractLsb' 13 4) = 0 ∧ vregOf (w.extractLsb' 9 4) = 0 ∧ w.extractLsb' 8 1 = 0 ∧
      w.extractLsb' 0 8 = 0 := by
  simp only [vregOf_eq_zero_iff, field_zero_split w 0 13 4, field_zero_split w 0 9 4, field_zero_split w 0 8 1]
  tauto

/-! ### Each format is decoded as it is encoded -/

section Formats

variable {w : Word} {op : BitVec 6} (hop : w.extractLsb' 26 6 = op) {i : Instr}

include hop

theorem decodeN_eq_ok_iff {i' : Instr} : decodeN w i' = .ok i ↔ i' = i ∧ w = op ++ 0#26 := by
  simp only [decodeN, zeroField_eq_ok_iff, eq_encodeN_iff, Except.ok.injEq, hop, true_and]
  exact and_comm

theorem decodeI_eq_ok_iff {mk : AReg → AReg → BitVec 16 → Instr} :
    decodeI w mk = .ok i ↔ ∃ ra rb imm16, mk ra rb imm16 = i ∧ w = encodeI op ra rb imm16 := by
  simp only [decodeI, zeroField_eq_ok_iff, eq_encodeI_iff, Except.ok.injEq, hop, true_and]
  constructor
  · rintro ⟨h0, rfl⟩
    exact ⟨_, _, _, rfl, rfl, rfl, h0, rfl⟩
  · rintro ⟨ra, rb, imm16, rfl, rfl, rfl, h0, rfl⟩
    exact ⟨h0, rfl⟩

theorem decodeIOne_eq_ok_iff {mk : AReg → BitVec 16 → Instr} :
    decodeIOne w mk = .ok i ↔ ∃ ra imm16, mk ra imm16 = i ∧ w = encodeI op ra 0 imm16 := by
  simp only [decodeIOne, zeroField_eq_ok_iff, eq_encodeI_iff, Except.ok.injEq, hop, true_and, aregOf_eq_zero_iff,
    field_zero_split w 16 4 3]
  constructor
  · rintro ⟨⟨h0, hrb⟩, rfl⟩
    exact ⟨_, _, rfl, rfl, hrb, h0, rfl⟩
  · rintro ⟨ra, imm16, rfl, rfl, hrb, h0, rfl⟩
    exact ⟨⟨h0, hrb⟩, rfl⟩

theorem decodeC_eq_ok_iff {mk : AReg → Csr → Instr} :
    decodeC w mk = .ok i ↔ ∃ ra csr, mk ra csr = i ∧ w = encodeC op ra csr := by
  simp only [decodeC, zeroField_eq_ok_iff, eq_encodeC_iff, hop, true_and]
  cases csrOf (w.extractLsb' 0 8) with
  | none => simp
  | some c =>
    simp only [Except.ok.injEq, Option.some.injEq]
    constructor
    · rintro ⟨h0, rfl⟩
      exact ⟨_, _, rfl, rfl, h0, rfl⟩
    · rintro ⟨ra, csr, rfl, rfl, h0, rfl⟩
      exact ⟨h0, rfl⟩

theorem decodeVMLane_eq_ok_iff {mk : ElemSize → VReg → AReg → Fin 8 → BitVec 12 → Instr} :
    decodeVMLane w mk = .ok i ↔
      ∃ sz v0 ra lane imm12, mk sz v0 ra lane imm12 = i ∧ w = encodeVM op sz.bits v0 ra lane imm12 := by
  simp only [decodeVMLane, zeroField_eq_ok_iff, eq_encodeVM_iff, Except.ok.injEq, hop, true_and, ← elemSizeOf_eq_iff]
  constructor
  · rintro ⟨h0, rfl⟩
    exact ⟨_, _, _, _, _, rfl, rfl, rfl, rfl, rfl, h0, rfl⟩
  · rintro ⟨sz, v0, ra, lane, imm12, rfl, rfl, rfl, rfl, rfl, h0, rfl⟩
    exact ⟨h0, rfl⟩

theorem decodeVM_eq_ok_iff {mk : Width → VReg → AReg → BitVec 12 → Instr} :
    decodeVM w mk = .ok i ↔ ∃ b v0 ra imm12, mk b v0 ra imm12 = i ∧ w = encodeVM op b.bits v0 ra 0 imm12 := by
  simp only [decodeVM, zeroField_eq_ok_iff, eq_encodeVM_iff, Except.ok.injEq, hop, true_and, ← widthOf_eq_iff,
    laneOf_eq_zero_iff, field_zero_split w 12 3 3]
  constructor
  · rintro ⟨⟨h0, hlane⟩, rfl⟩
    exact ⟨_, _, _, _, rfl, rfl, rfl, rfl, hlane, h0, rfl⟩
  · rintro ⟨b, v0, ra, imm12, rfl, rfl, rfl, rfl, hlane, h0, rfl⟩
    exact ⟨⟨h0, hlane⟩, rfl⟩

theorem decodeVRFour_eq_ok_iff {mk : Width → VReg → VReg → VReg → VReg → Instr} :
    decodeVRFour w mk = .ok i ↔ ∃ b v0 v1 v2 v3, mk b v0 v1 v2 v3 = i ∧ w = encodeVR op b v0 v1 v2 v3 0 := by
  simp only [decodeVRFour, zeroField_eq_ok_iff, eq_encodeVR_iff, Except.ok.injEq, hop, true_and, ← widthOf_eq_iff,
    field_zero_split w 0 8 1]
  constructor
  · rintro ⟨⟨himm, h0⟩, rfl⟩
    exact ⟨_, _, _, _, _, rfl, rfl, rfl, rfl, rfl, rfl, h0, himm⟩
  · rintro ⟨b, v0, v1, v2, v3, rfl, rfl, rfl, rfl, rfl, rfl, h0, himm⟩
    exact ⟨⟨himm, h0⟩, rfl⟩

theorem decodeVRTwo_eq_ok_iff {mk : Width → VReg → VReg → Instr} :
    decodeVRTwo w mk = .ok i ↔ ∃ b v0 v1, mk b v0 v1 = i ∧ w = encodeVR op b v0 v1 0 0 0 := by
  simp only [decodeVRTwo, zeroField_eq_ok_iff, eq_encodeVR_iff, Except.ok.injEq, hop, true_and, ← widthOf_eq_iff,
    vrTail_eq_zero_iff]
  constructor
  · rintro ⟨h0, rfl⟩
    exact ⟨_, _, _, rfl, rfl, rfl, rfl, h0⟩
  · rintro ⟨b, v0, v1, rfl, rfl, rfl, rfl, h0⟩
    exact ⟨h0, rfl⟩

theorem decodeVRHalf_eq_ok_iff {mk : VReg → VReg → Instr} :
    decodeVRHalf w mk = .ok i ↔ ∃ v0 v1, mk v0 v1 = i ∧ w = encodeVR op .x v0 v1 0 0 0 := by
  have hwide : decodeVRHalf w mk = .ok i ↔ w.extractLsb' 25 1 = 0 ∧ w.extractLsb' 0 17 = 0 ∧
      mk (vregOf (w.extractLsb' 21 4)) (vregOf (w.extractLsb' 17 4)) = i := by
    unfold decodeVRHalf
    split <;> simp_all [zeroField_eq_ok_iff]
  rw [hwide]
  simp only [eq_encodeVR_iff, hop, true_and, Width.bits, vrTail_eq_zero_iff]
  constructor
  · rintro ⟨hw, h0, rfl⟩
    exact ⟨_, _, rfl, hw, rfl, rfl, h0⟩
  · rintro ⟨v0, v1, rfl, hw, rfl, rfl, h0⟩
    exact ⟨hw, h0, rfl⟩

/-! The rows whose format the decoder writes out in place: J, ADD, SHUFD, TR16B and DCMP. -/

theorem decode_j_eq_ok_iff : zeroField (w.extractLsb' 16 10) (.ok (.j (w.extractLsb' 0 16))) = .ok i ↔
    ∃ imm16, .j imm16 = i ∧ w = encodeI op 0 0 imm16 := by
  simp only [zeroField_eq_ok_iff, eq_encodeI_iff, Except.ok.injEq, hop, true_and, aregOf_eq_zero_iff,
    field_zero_split w 16 7 3, field_zero_split w 16 4 3]
  constructor
  · rintro ⟨⟨⟨h0, hrb⟩, hra⟩, rfl⟩
    exact ⟨_, rfl, hra, hrb, h0, rfl⟩
  · rintro ⟨imm16, rfl, hra, hrb, h0, rfl⟩
    exact ⟨⟨⟨h0, hrb⟩, hra⟩, rfl⟩

theorem decode_add_eq_ok_iff : zeroField (w.extractLsb' 0 17)
      (.ok (.add (aregOf (w.extractLsb' 23 3)) (aregOf (w.extractLsb' 20 3)) (aregOf (w.extractLsb' 17 3)))) = .ok i ↔
    ∃ ra rb rc, .add ra rb rc = i ∧ w = encodeR op ra rb rc := by
  simp only [zeroField_eq_ok_iff, eq_encodeR_iff, Except.ok.injEq, hop, true_and]
  constructor
  · rintro ⟨h0, rfl⟩
    exact ⟨_, _, _, rfl, rfl, rfl, rfl, h0⟩
  · rintro ⟨ra, rb, rc, rfl, rfl, rfl, rfl, h0⟩
    exact ⟨h0, rfl⟩

theorem decode_dcmp_eq_ok_iff : zeroField (w.extractLsb' 0 23) (.ok (.dcmp (aregOf (w.extractLsb' 23 3)))) = .ok i ↔
    ∃ ra, .dcmp ra = i ∧ w = encodeR op ra 0 0 := by
  simp only [zeroField_eq_ok_iff, eq_encodeR_iff, Except.ok.injEq, hop, true_and, aregOf_eq_zero_iff,
    field_zero_split w 0 20 3, field_zero_split w 0 17 3]
  constructor
  · rintro ⟨⟨⟨h0, hrc⟩, hrb⟩, rfl⟩
    exact ⟨_, rfl, rfl, hrb, hrc, h0⟩
  · rintro ⟨ra, rfl, rfl, hrb, hrc, h0⟩
    exact ⟨⟨⟨h0, hrc⟩, hrb⟩, rfl⟩

theorem decode_shufd_eq_ok_iff : zeroField (w.extractLsb' 8 5)
      (.ok (.shufd (widthOf (w.extractLsb' 25 1)) (vregOf (w.extractLsb' 21 4)) (vregOf (w.extractLsb' 17 4))
        (vregOf (w.extractLsb' 13 4)) (w.extractLsb' 0 8))) = .ok i ↔
    ∃ b v0 v1 v2 imm8, .shufd b v0 v1 v2 imm8 = i ∧ w = encodeVR op b v0 v1 v2 0 imm8 := by
  simp only [zeroField_eq_ok_iff, eq_encodeVR_iff, Except.ok.injEq, hop, true_and, ← widthOf_eq_iff,
    vregOf_eq_zero_iff, field_zero_split w 8 1 4]
  constructor
  · rintro ⟨⟨h0, h3⟩, rfl⟩
    exact ⟨_, _, _, _, _, rfl, rfl, rfl, rfl, rfl, h3, h0, rfl⟩
  · rintro ⟨b, v0, v1, v2, imm8, rfl, rfl, rfl, rfl, rfl, h3, h0, rfl⟩
    exact ⟨⟨h0, h3⟩, rfl⟩

theorem decode_tr16b_eq_ok_iff :
    zeroField (w.extractLsb' 0 25) (.ok (.tr16b (widthOf (w.extractLsb' 25 1)))) = .ok i ↔
      ∃ b, .tr16b b = i ∧ w = encodeVR op b 0 0 0 0 0 := by
  simp only [zeroField_eq_ok_iff, eq_encodeVR_iff, Except.ok.injEq, hop, true_and, ← widthOf_eq_iff,
    field_zero_split w 0 21 4, field_zero_split w 0 17 4, ← vregOf_eq_zero_iff, vrTail_eq_zero_iff]
  constructor
  · rintro ⟨⟨⟨h0, h1⟩, h2⟩, rfl⟩
    exact ⟨_, rfl, rfl, h2, h1, h0⟩
  · rintro ⟨b, rfl, rfl, h2, h1, h0⟩
    exact ⟨⟨⟨h0, h1⟩, h2⟩, rfl⟩

end Formats

theorem decodeD_eq_ok_iff {w : Word} (hop : w.extractLsb' 26 6 = 0x20) {i : Instr} :
    decodeD w = .ok i ↔ ∃ b mode, .dmx b mode = i ∧ w = encode (.dmx b mode) := by
  simp only [decodeD, zeroField_eq_ok_iff, eq_encodeD_iff, hop, true_and]
  cases modeOf (w.extractLsb' 22 3) with
  | none => simp
  | some m =>
    simp only [Except.ok.injEq, Option.some.injEq]
    constructor
    · rintro ⟨h0, rfl⟩
      exact ⟨_, _, rfl, rfl, rfl, h0⟩
    · rintro ⟨b, mode, rfl, rfl, rfl, h0⟩
      exact ⟨h0, rfl⟩

/-! ### Decode and encode agree -/

/-- A word that decodes by its fields is the encoding of what it decodes to: the opcode map (R78) names the same format
as the encoder's. -/
theorem encode_of_decodeFields {w : Word} {i : Instr} (h : decodeFields w = .ok i) : encode i = w := by
  have opcode : ∀ n : Nat, (w.extractLsb' 26 6).toNat = n → w.extractLsb' 26 6 = BitVec.ofNat 6 n := by
    rintro _ rfl
    rw [BitVec.ofNat_toNat, BitVec.setWidth_eq]
  unfold decodeFields at h
  split at h
  case h_1 hop | h_2 hop => obtain ⟨rfl, rfl⟩ := (decodeN_eq_ok_iff (opcode _ hop)).1 h; rfl
  case h_3 hop => obtain ⟨imm16, rfl, rfl⟩ := (decode_j_eq_ok_iff (opcode _ hop)).1 h; rfl
  case h_4 hop | h_6 hop | h_7 hop =>
    obtain ⟨ra, imm16, rfl, rfl⟩ := (decodeIOne_eq_ok_iff (opcode _ hop)).1 h; rfl
  case h_5 hop | h_8 hop | h_10 hop | h_11 hop =>
    obtain ⟨ra, rb, imm16, rfl, rfl⟩ := (decodeI_eq_ok_iff (opcode _ hop)).1 h; rfl
  case h_9 hop => obtain ⟨ra, rb, rc, rfl, rfl⟩ := (decode_add_eq_ok_iff (opcode _ hop)).1 h; rfl
  case h_12 hop | h_13 hop => obtain ⟨ra, csr, rfl, rfl⟩ := (decodeC_eq_ok_iff (opcode _ hop)).1 h; rfl
  case h_14 hop | h_15 hop =>
    obtain ⟨b, v0, ra, imm12, rfl, rfl⟩ := (decodeVM_eq_ok_iff (opcode _ hop)).1 h; rfl
  case h_16 hop | h_17 hop =>
    obtain ⟨sz, v0, ra, lane, imm12, rfl, rfl⟩ := (decodeVMLane_eq_ok_iff (opcode _ hop)).1 h; rfl
  case h_18 hop | h_23 hop => obtain ⟨b, v0, v1, rfl, rfl⟩ := (decodeVRTwo_eq_ok_iff (opcode _ hop)).1 h; rfl
  case h_19 hop => obtain ⟨b, v0, v1, v2, imm8, rfl, rfl⟩ := (decode_shufd_eq_ok_iff (opcode _ hop)).1 h; rfl
  case h_20 hop | h_21 hop =>
    obtain ⟨b, v0, v1, v2, v3, rfl, rfl⟩ := (decodeVRFour_eq_ok_iff (opcode _ hop)).1 h; rfl
  case h_22 hop => obtain ⟨b, rfl, rfl⟩ := (decode_tr16b_eq_ok_iff (opcode _ hop)).1 h; rfl
  case h_24 hop | h_25 hop => obtain ⟨v0, v1, rfl, rfl⟩ := (decodeVRHalf_eq_ok_iff (opcode _ hop)).1 h; rfl
  case h_26 hop => obtain ⟨b, mode, rfl, rfl⟩ := (decodeD_eq_ok_iff (opcode _ hop)).1 h; rfl
  case h_27 hop => obtain ⟨ra, rfl, rfl⟩ := (decode_dcmp_eq_ok_iff (opcode _ hop)).1 h; rfl
  case h_28 => cases h

theorem opcode_encodeN (op : BitVec 6) : (op ++ 0#26).extractLsb' 26 6 = op := (eq_encodeN_iff.1 rfl).1

theorem opcode_encodeI (op : BitVec 6) (ra rb : AReg) (imm16 : BitVec 16) :
    (encodeI op ra rb imm16).extractLsb' 26 6 = op := (eq_encodeI_iff.1 rfl).1

theorem opcode_encodeR (op : BitVec 6) (ra rb rc : AReg) : (encodeR op ra rb rc).extractLsb' 26 6 = op :=
  (eq_encodeR_iff.1 rfl).1

theorem opcode_encodeC (op : BitVec 6) (ra : AReg) (csr : Csr) : (encodeC op ra csr).extractLsb' 26 6 = op :=
  (eq_encodeC_iff.1 rfl).1

theorem opcode_encodeVM (op : BitVec 6) (b : BitVec 1) (v0 : VReg) (ra : AReg) (lane : Fin 8) (imm12 : BitVec 12) :
    (encodeVM op b v0 ra lane imm12).extractLsb' 26 6 = op := (eq_encodeVM_iff.1 rfl).1

theorem opcode_encodeVR (op : BitVec 6) (b : Width) (v0 v1 v2 v3 : VReg) (imm8 : BitVec 8) :
    (encodeVR op b v0 v1 v2 v3 imm8).extractLsb' 26 6 = op := (eq_encodeVR_iff.1 rfl).1

theorem opcode_encode_dmx (b : Width) (mode : DmxMode) : (encode (.dmx b mode)).extractLsb' 26 6 = 0x20 :=
  (eq_encodeD_iff.1 rfl).1

/-- Every instruction, well-formed or not, is read back from the fields of its word. -/
theorem decodeFields_encode (i : Instr) : decodeFields (encode i) = .ok i := by
  unfold decodeFields
  cases i
  case nop | halt =>
    rw [encode, opcode_encodeN]; exact (decodeN_eq_ok_iff (opcode_encodeN _)).2 ⟨rfl, rfl⟩
  case j => rw [encode, opcode_encodeI]; exact (decode_j_eq_ok_iff (opcode_encodeI ..)).2 ⟨_, rfl, rfl⟩
  case dbnz | li | lih =>
    rw [encode, opcode_encodeI]; exact (decodeIOne_eq_ok_iff (opcode_encodeI ..)).2 ⟨_, _, rfl, rfl⟩
  case bne | addi | ldw | stw =>
    rw [encode, opcode_encodeI]; exact (decodeI_eq_ok_iff (opcode_encodeI ..)).2 ⟨_, _, _, rfl, rfl⟩
  case add => rw [encode, opcode_encodeR]; exact (decode_add_eq_ok_iff (opcode_encodeR ..)).2 ⟨_, _, _, rfl, rfl⟩
  case dcmp => rw [encode, opcode_encodeR]; exact (decode_dcmp_eq_ok_iff (opcode_encodeR ..)).2 ⟨_, rfl, rfl⟩
  case csrr | csrw => rw [encode, opcode_encodeC]; exact (decodeC_eq_ok_iff (opcode_encodeC ..)).2 ⟨_, _, rfl, rfl⟩
  case vld | vst =>
    rw [encode, opcode_encodeVM]; exact (decodeVM_eq_ok_iff (opcode_encodeVM ..)).2 ⟨_, _, _, _, rfl, rfl⟩
  case vldl | vstl =>
    rw [encode, opcode_encodeVM]; exact (decodeVMLane_eq_ok_iff (opcode_encodeVM ..)).2 ⟨_, _, _, _, _, rfl, rfl⟩
  case tr4b | vmov =>
    rw [encode, opcode_encodeVR]; exact (decodeVRTwo_eq_ok_iff (opcode_encodeVR ..)).2 ⟨_, _, _, rfl, rfl⟩
  case shufd =>
    rw [encode, opcode_encodeVR]; exact (decode_shufd_eq_ok_iff (opcode_encodeVR ..)).2 ⟨_, _, _, _, _, rfl, rfl⟩
  case tr4d | tr8b =>
    rw [encode, opcode_encodeVR]; exact (decodeVRFour_eq_ok_iff (opcode_encodeVR ..)).2 ⟨_, _, _, _, _, rfl, rfl⟩
  case tr16b =>
    rw [encode, opcode_encodeVR]; exact (decode_tr16b_eq_ok_iff (opcode_encodeVR ..)).2 ⟨_, rfl, rfl⟩
  case vinsh | vexth =>
    rw [encode, opcode_encodeVR]; exact (decodeVRHalf_eq_ok_iff (opcode_encodeVR ..)).2 ⟨_, _, rfl, rfl⟩
  case dmx => rw [opcode_encode_dmx]; exact (decodeD_eq_ok_iff (opcode_encode_dmx ..)).2 ⟨_, _, rfl, rfl⟩

/-- Decoding looks at the fields first, then at the operand combination (R79). -/
theorem decode_of_decodeFields {w : Word} {i : Instr} (h : decodeFields w = .ok i) :
    decode w = if WellFormed i then .ok i else .error (operandError i) := by
  rw [decode, h]

theorem decodeFields_of_decode {w : Word} {i : Instr} (h : decode w = .ok i) : decodeFields w = .ok i := by
  unfold decode at h
  split at h
  · rename_i j hj
    split at h
    · rw [hj, h]
    · cases h
  · cases h

/-- Settles O1: the fields of the word give the instruction back, and a well-formed one passes the operand checks. -/
theorem decodeOfEncodeIsTheInstruction : Obligations.DecodeOfEncodeIsTheInstruction := by
  intro i hi
  rw [decode_of_decodeFields (decodeFields_encode i), if_pos hi]

/-- Settles O2: each format reads all 32 bits, so its fields determine the word. -/
theorem acceptedWordIsTheEncodingOfItsInstruction : Obligations.AcceptedWordIsTheEncodingOfItsInstruction :=
  fun w i h => ⟨Machine.wellFormed_of_decode w i h, encode_of_decodeFields (decodeFields_of_decode h)⟩

/-- Each instruction that can be ill-formed checks its operands before anything else (log 13). -/
theorem exec_of_not_wellFormed {i : Instr} (h : WellFormed i = false) (s : Machine.State) :
    Machine.exec i s = .next (s.raise ⟨.illegalInstruction, encode i⟩) := by
  cases i
  case csrw | vldl | vstl | tr4d | tr8b | dmx => exact s.ifLegal_of_not_wf _ _ h
  all_goals cases h

/-- Settles O3: the fields of the word give the instruction back, the operand check refuses it, and so does exec. -/
theorem illFormedOperandsAreRejected : Obligations.IllFormedOperandsAreRejected := by
  intro i hi
  refine ⟨⟨operandError i, ?_⟩, fun s => ⟨_, exec_of_not_wellFormed hi s, Machine.faultTaken_raise s _⟩⟩
  rw [decode_of_decodeFields (decodeFields_encode i), if_neg (by simp [hi])]

/-- An opcode outside the opcode map is reserved (R78). -/
theorem decodeFields_of_reserved {w : Word}
    (h : (w.extractLsb' 26 6).toNat ∉ [0x01, 0x02, 0x04, 0x05, 0x06, 0x08, 0x09, 0x0A, 0x0B, 0x0C, 0x0D, 0x0E, 0x0F,
      0x10, 0x11, 0x12, 0x13, 0x18, 0x19, 0x1A, 0x1B, 0x1C, 0x1D, 0x1E, 0x1F, 0x20, 0x21]) :
    decodeFields w = .error .reservedOpcode := by
  unfold decodeFields
  split
  case h_28 => rfl
  all_goals
    rename_i hop
    rw [hop] at h
    exact absurd (by decide) h

/-- Settles O5: no reserved opcode is in the opcode map. -/
theorem reservedOpcodesAreRejected : Obligations.ReservedOpcodesAreRejected := by
  intro w hw
  have hlt := w.isLt
  have hfields : decodeFields w = .error .reservedOpcode := by
    apply decodeFields_of_reserved
    simp only [field_toNat, List.mem_cons, List.not_mem_nil, or_false]
    omega
  rw [decode, hfields]

/-- Settles O4: the decoder run on each of the twelve words. -/
theorem sampleWordsDecode : Obligations.SampleWordsDecode := by
  refine ⟨?_, ?_, ?_, ?_, ?_, ?_, ?_, ?_, ?_, ?_, ?_, ?_⟩ <;> decide

end Sys2Proof

namespace Sys2Proof.Machine

/-! ### What an instruction can do

Every instruction faults, halts or completes. One that completes writes one part of the state and moves the pc;
`Completes` has one shape for each part. What holds of every instruction is then a case analysis over these few
shapes. -/

/-- Where the pc goes without a branch, or to a branch target (10_state.md R12, R22; 44_sequencer.md R119). -/
def NextPc (s : State) (p : Word) : Prop := p = s.pc + 4 ∨ ∃ imm16, p = s.branchTarget imm16

theorem nextPc_seq (s : State) : NextPc s (s.pc + 4) := .inl rfl

theorem nextPc_target (s : State) (imm16 : BitVec 16) : NextPc s (s.branchTarget imm16) := .inr ⟨imm16, rfl⟩

theorem nextPc_ite (s : State) (imm16 : BitVec 16) (c : Prop) [Decidable c] :
    NextPc s (if c then s.branchTarget imm16 else s.pc + 4) := by
  split
  · exact nextPc_target s imm16
  · exact nextPc_seq s

/-- The state `t` an instruction leaves that neither faults nor halts, by the part of the state it writes: the pc alone;
its scalar register; a configuration CSR, which only CSRW does; its tile registers; the one block of DMEM of a store;
the buffers of a DMX whose checks pass. -/
def Completes (i : Instr) (s t : State) : Prop :=
  (∃ p, NextPc s p ∧ t = s.setPc p) ∨
  (∃ r x p, scalarDest i = [r] ∧ NextPc s p ∧ t = (s.writeA r x).setPc p) ∨
  (∃ ra c x, i = .csrw ra c ∧ t = (s.csrWrite c x).advance) ∨
  (∃ v : Vector Tile 16, (∀ q : VReg, q ∉ tileDest i → v[q] = s.v[q]) ∧ t = { s with v := v, pc := s.pc + 4 }) ∨
  (∃ a bs, s.writtenBlocks i = [(a, bs.length)] ∧ t = (s.storeBytes a bs).advance) ∨
  ∃ w mode, i = .dmx w mode ∧ s.dmxTrap w mode = none ∧ t = s.dmxDone mode

namespace Completes

variable {i : Instr} {s t : State}

theorem pc {p : Word} (hp : NextPc s p) : Completes i s (s.setPc p) := .inl ⟨p, hp, rfl⟩

theorem scalar {r : AReg} {x p : Word} (hr : scalarDest i = [r]) (hp : NextPc s p) :
    Completes i s ((s.writeA r x).setPc p) := .inr (.inl ⟨r, x, p, hr, hp, rfl⟩)

theorem csr {ra : AReg} {c : Csr} {x : Word} (hi : i = .csrw ra c) : Completes i s (s.csrWrite c x).advance :=
  .inr (.inr (.inl ⟨ra, c, x, hi, rfl⟩))

theorem tiles {v : Vector Tile 16} (hv : ∀ q : VReg, q ∉ tileDest i → v[q] = s.v[q]) :
    Completes i s { s with v := v, pc := s.pc + 4 } := .inr (.inr (.inr (.inl ⟨v, hv, rfl⟩)))

theorem store {a : Nat} {bs : List Byte} (hb : s.writtenBlocks i = [(a, bs.length)]) :
    Completes i s (s.storeBytes a bs).advance := .inr (.inr (.inr (.inr (.inl ⟨a, bs, hb, rfl⟩))))

theorem demux {w : Width} {mode : DmxMode} (hi : i = .dmx w mode) (ht : s.dmxTrap w mode = none) :
    Completes i s (s.dmxDone mode) := .inr (.inr (.inr (.inr (.inr ⟨w, mode, hi, ht, rfl⟩))))

/-- The case analysis over the six shapes, for `cases … using`. -/
theorem byShape {motive : ∀ t, Completes i s t → Prop}
    (pc : ∀ {p} (hp : NextPc s p), motive _ (pc hp))
    (scalar : ∀ {r x p} (hr : scalarDest i = [r]) (hp : NextPc s p), motive _ (scalar (x := x) hr hp))
    (csr : ∀ {ra c x} (hi : i = .csrw ra c), motive _ (csr (x := x) hi))
    (tiles : ∀ {v} (hv : ∀ q : VReg, q ∉ tileDest i → v[q] = s.v[q]), motive _ (tiles hv))
    (store : ∀ {a} {bs : List Byte} (hb : s.writtenBlocks i = [(a, bs.length)]), motive _ (store hb))
    (demux : ∀ {w mode} (hi : i = .dmx w mode) (ht : s.dmxTrap w mode = none), motive _ (demux hi ht))
    {t : State} (h : Completes i s t) : motive t h := by
  obtain ⟨p, hp, rfl⟩ | ⟨r, x, p, hr, hp, rfl⟩ | ⟨ra, c, x, hi, rfl⟩ | ⟨v, hv, rfl⟩ | ⟨a, bs, hb, rfl⟩ |
    ⟨w, mode, hi, ht, rfl⟩ := h
  · exact pc hp
  · exact scalar hr hp
  · exact csr hi
  · exact tiles hv
  · exact store hb
  · exact demux hi ht

end Completes

/-- The outcome of an instruction: it answers a state in which a fault is taken, the run is ended by HALT, or the
instruction is complete. -/
def HasOutcome (i : Instr) (s : State) (r : Result) : Prop :=
  ∃ t, r = .next t ∧ ((∃ trap, t = s.raise trap) ∨ (i = .halt ∧ t = s.endRun) ∨ Completes i s t)

theorem hasOutcome_raise (i : Instr) (s : State) (trap : Trap) : HasOutcome i s (.next (s.raise trap)) :=
  ⟨_, rfl, .inl ⟨trap, rfl⟩⟩

theorem Completes.hasOutcome {i : Instr} {s t : State} (h : Completes i s t) : HasOutcome i s (.next t) :=
  ⟨t, rfl, .inr (.inr h)⟩

theorem hasOutcome_ifLegal {i : Instr} {s : State} {r : Result} (h : HasOutcome i s r) :
    HasOutcome i s (s.ifLegal i r) := by
  unfold State.ifLegal
  split
  · exact h
  · exact hasOutcome_raise i s _

theorem hasOutcome_orRaise {α : Type} {i : Instr} {s : State} {r : Except Trap α} {k : α → State}
    (h : ∀ x, r = .ok x → Completes i s (k x)) : HasOutcome i s (s.orRaise r k) := by
  cases r with
  | ok x => exact (h x rfl).hasOutcome
  | error trap => exact hasOutcome_raise i s trap

/-- Writing one tile register of the instruction. -/
theorem completes_writeV {i : Instr} (s : State) {r : VReg} (t : Tile) (hr : tileDest i = [r]) :
    Completes i s (s.writeV r t).advance := by
  refine .tiles fun q hq => ?_
  exact (s.readV_writeV r q t).trans (if_neg fun h => hq (by simp [hr, h]))

/-- Writing the four tile registers of the instruction. -/
theorem completes_writeRows {i : Instr} (s : State) {v0 v1 v2 v3 : VReg} (f : Nat → Tile)
    (hr : tileDest i = [v0, v1, v2, v3]) : Completes i s (s.writeRows v0 v1 v2 v3 f).advance :=
  .tiles fun q hq => s.readV_writeRows_other v0 v1 v2 v3 q f (hr ▸ hq)

/-- Writing all sixteen tile registers, for the instruction that may. -/
theorem completes_writeAllRows {i : Instr} (s : State) (f : Nat → Tile) (hr : tileDest i = List.finRange 16) :
    Completes i s (s.writeAllRows f).advance :=
  .tiles fun q hq => absurd (List.mem_finRange q) (hr ▸ hq)

/-- What every instruction can do. -/
theorem exec_hasOutcome (i : Instr) (s : State) : HasOutcome i s (exec i s) := by
  cases i with
  | nop => exact (Completes.pc (nextPc_seq s)).hasOutcome
  | halt => exact ⟨_, rfl, .inr (.inl ⟨rfl, rfl⟩)⟩
  | j imm16 => exact (Completes.pc (nextPc_target s imm16)).hasOutcome
  | bne ra rb imm16 => exact (Completes.pc (nextPc_ite s imm16 _)).hasOutcome
  | dbnz ra imm16 => exact (Completes.scalar rfl (nextPc_ite s imm16 _)).hasOutcome
  | li ra imm16 => exact (Completes.scalar rfl (nextPc_seq s)).hasOutcome
  | lih ra imm16 => exact (Completes.scalar rfl (nextPc_seq s)).hasOutcome
  | addi ra rb imm16 => exact (Completes.scalar rfl (nextPc_seq s)).hasOutcome
  | add ra rb rc => exact (Completes.scalar rfl (nextPc_seq s)).hasOutcome
  | csrr ra csr => exact (Completes.scalar rfl (nextPc_seq s)).hasOutcome
  | ldw ra rb imm16 => exact hasOutcome_orRaise fun a _ => .scalar rfl (nextPc_seq s)
  | stw ra rb imm16 => exact hasOutcome_orRaise fun a ha => .store (by simp [State.writtenBlocks, ha])
  | csrw ra csr => exact hasOutcome_ifLegal (Completes.csr rfl).hasOutcome
  | vld w v0 ra imm12 => exact hasOutcome_orRaise fun a _ => completes_writeV s _ rfl
  | vst w v0 ra imm12 => exact hasOutcome_orRaise fun a ha => .store (by simp [State.writtenBlocks, ha])
  | vldl sz v0 ra lane imm12 => exact hasOutcome_ifLegal (hasOutcome_orRaise fun a _ => completes_writeV s _ rfl)
  | vstl sz v0 ra lane imm12 =>
    exact hasOutcome_ifLegal (hasOutcome_orRaise fun a ha => .store (by simp [State.writtenBlocks, ha]))
  | tr4b w v0 v1 => exact (completes_writeV s _ rfl).hasOutcome
  | shufd w v0 v1 v2 imm8 => exact (completes_writeV s _ rfl).hasOutcome
  | vmov w v0 v1 => exact (completes_writeV s _ rfl).hasOutcome
  | vinsh v0 v1 => exact (completes_writeV s _ rfl).hasOutcome
  | vexth v0 v1 => exact (completes_writeV s _ rfl).hasOutcome
  | tr4d w v0 v1 v2 v3 => exact hasOutcome_ifLegal (completes_writeRows s _ rfl).hasOutcome
  | tr8b w v0 v1 v2 v3 => exact hasOutcome_ifLegal (completes_writeRows s _ rfl).hasOutcome
  | tr16b w => exact (completes_writeAllRows s _ rfl).hasOutcome
  | dmx w mode =>
    refine hasOutcome_ifLegal ?_
    cases ht : s.dmxTrap w mode with
    | none => exact (Completes.demux rfl ht).hasOutcome
    | some trap => exact hasOutcome_raise _ s trap
  | dcmp ra =>
    unfold exec execDcmp
    cases s.dcmpTrap with
    | none => exact hasOutcome_orRaise fun x _ => .scalar rfl (nextPc_seq s)
    | some trap => exact hasOutcome_raise _ s trap

/-- The state an instruction answers, by its outcome. -/
theorem exec_cases {i : Instr} {s t : State} (h : exec i s = .next t) :
    (∃ trap, t = s.raise trap) ∨ (i = .halt ∧ t = s.endRun) ∨ Completes i s t := by
  obtain ⟨u, hu, hcases⟩ := exec_hasOutcome i s
  obtain rfl : u = t := Host.Outcome.next.inj (hu.symm.trans h)
  exact hcases

/-! ### What an instruction that completes leaves the same -/

/-- DMX done writes DMEM, the pc and the model's counter: every other field is the same (R91). -/
theorem State.dmxDone_frame (s : State) (mode : DmxMode) :
    SameRunState s (s.dmxDone mode) ∧ SameControl s (s.dmxDone mode) ∧ SameConfig s (s.dmxDone mode) ∧
      (s.dmxDone mode).imem = s.imem ∧ SameModel s (s.dmxDone mode) ∧ (s.dmxDone mode).a = s.a ∧
      (s.dmxDone mode).v = s.v ∧ (s.dmxDone mode).pc = s.pc + 4 := by
  obtain ⟨m, hm⟩ := s.dmxDone_only mode
  rw [hm]
  exact ⟨⟨rfl, rfl, rfl, rfl, rfl⟩, ⟨rfl, rfl, rfl, rfl⟩, ⟨rfl, rfl, rfl, rfl, rfl, rfl, rfl⟩, rfl, ⟨rfl, rfl, rfl⟩,
    rfl, rfl, rfl⟩

namespace Completes

variable {i : Instr} {s t : State}

/-- No instruction that completes writes the run state, the fault record, IE, ENTRY, the parameters, IMEM or the model's
own fields. -/
theorem frame (h : Completes i s t) : SameRunState s t ∧ SameControl s t ∧ t.imem = s.imem ∧ SameModel s t := by
  cases h using byShape with
  | @csr _ c _ hi => cases c <;> exact ⟨⟨rfl, rfl, rfl, rfl, rfl⟩, ⟨rfl, rfl, rfl, rfl⟩, rfl, rfl, rfl, rfl⟩
  | @demux _ mode hi ht =>
    obtain ⟨hrun, hcontrol, -, himem, hmodel, -⟩ := s.dmxDone_frame mode
    exact ⟨hrun, hcontrol, himem, hmodel⟩
  | _ => exact ⟨⟨rfl, rfl, rfl, rfl, rfl⟩, ⟨rfl, rfl, rfl, rfl⟩, rfl, rfl, rfl, rfl⟩

/-- Only CSRW writes a configuration CSR (R27). -/
theorem sameConfig (h : Completes i s t) (hi : ∀ ra c, i ≠ .csrw ra c) : SameConfig s t := by
  cases h using byShape with
  | csr hcsr => exact absurd hcsr (hi _ _)
  | @demux _ mode hdmx ht =>
    obtain ⟨-, -, hconfig, -⟩ := s.dmxDone_frame mode
    exact hconfig
  | _ => exact ⟨rfl, rfl, rfl, rfl, rfl, rfl, rfl⟩

theorem nextPc (h : Completes i s t) : NextPc s t.pc := by
  cases h using byShape with
  | pc hp => exact hp
  | scalar hr hp => exact hp
  | @csr _ c x hi => exact .inl (by rw [State.advance_pc, State.csrWrite_pc])
  | @demux _ mode hi ht =>
    obtain ⟨-, -, -, -, -, -, -, hpc⟩ := s.dmxDone_frame mode
    exact .inl hpc
  | _ => exact nextPc_seq s

/-- Only the instruction's scalar register is written (R18). -/
theorem readA (h : Completes i s t) (q : AReg) (hq : q ∉ scalarDest i) : t.readA q = s.readA q := by
  cases h using byShape with
  | @scalar r x p hr hp =>
    have hne : q ≠ r := fun h => hq (by simp [hr, h])
    rw [State.readA_setPc, State.readA_writeA, if_neg fun h => hne h.1]
  | @csr _ c _ hi => exact State.readA_congr (State.csrWrite_a s c _) q
  | @demux _ mode hi ht =>
    obtain ⟨-, -, -, -, -, ha, -, -⟩ := s.dmxDone_frame mode
    exact State.readA_congr ha q
  | _ => rfl

/-- The slot of A0 is never written (log 21). -/
theorem slot_zero (h : Completes i s t) : t.a[0] = s.a[0] := by
  cases h using byShape with
  | @scalar r x p hr hp =>
    by_cases h0 : r = 0
    · simp [h0]
    · have : (r : Nat) ≠ 0 := fun h => h0 (Fin.ext h)
      simp [h0, this]
  | @csr _ c _ hi => simp
  | @demux _ mode hi ht =>
    obtain ⟨-, -, -, -, -, ha, -, -⟩ := s.dmxDone_frame mode
    rw [ha]
  | _ => rfl

/-- Only the instruction's tile registers are written (R21). -/
theorem readV (h : Completes i s t) : SameVExcept (tileDest i) s t := by
  intro q hq
  cases h using byShape with
  | tiles hv => exact hv q hq
  | @csr _ c _ hi => exact State.readV_congr (State.csrWrite_v s c _) q
  | @demux _ mode hi ht =>
    obtain ⟨-, -, -, -, -, -, hv, -⟩ := s.dmxDone_frame mode
    exact State.readV_congr hv q
  | _ => rfl

/-- Only the instruction's blocks of DMEM are written (20_memory.md R55; R91). -/
theorem byteAt (h : Completes i s t) (x : Nat) (hx : ∀ b ∈ s.writtenBlocks i, ¬ (b.1 ≤ x ∧ x < b.1 + b.2)) :
    t.byteAt x = s.byteAt x := by
  cases h using byShape with
  | @store a bs hb =>
    rw [State.byteAt_advance, State.byteAt_storeBytes, if_neg (hx (a, bs.length) (by simp [hb]))]
  | @csr _ c _ hi => exact State.byteAt_congr (State.csrWrite_dmem s c _) (State.csrWrite_fillSeed s c _) x
  | @demux w mode hi ht =>
    subst hi
    rw [State.dmxDone_byteAt]
    refine s.dmxWrite_byteAt_outside _ _ _ _ x fun e he => ?_
    exact hx (e.addr.toNat, s.dmxRows mode) (by simp only [State.writtenBlocks, ht]; exact List.mem_map_of_mem he)
  | _ => rfl

/-- DMEM keeps its canonical form. -/
theorem dmem_wf (h : Completes i s t) (hs : Memory.wf s.dmem = true) : Memory.wf t.dmem = true := by
  cases h using byShape with
  | store hb => exact Memory.write_wf _ _ _ hs
  | @csr _ c _ hi => rwa [State.advance_dmem, State.csrWrite_dmem]
  | demux hi ht => exact s.dmxWrite_wf _ _ _ _ hs
  | _ => exact hs

/-- DMEM stays in range: an instruction that completes has passed its range checks (R48, R88). -/
theorem dmem_below (h : Completes i s t) (hs : Memory.below s.params.dmemBytes s.dmem = true) :
    Memory.below s.params.dmemBytes t.dmem = true := by
  cases h using byShape with
  | @store a bs hb =>
    exact Memory.write_below_of_empty_or _ _ _ _ hs (s.writtenBlocks_in_range i (a, bs.length) (by simp [hb]))
  | @csr _ c _ hi => rwa [State.advance_dmem, State.csrWrite_dmem]
  | @demux w mode hi ht =>
    refine s.dmxWrite_below _ _ _ _ _ hs fun e he hrows => ?_
    have hb : (e.addr.toNat, s.dmxRows mode) ∈ s.writtenBlocks (.dmx w mode) := by
      simp only [State.writtenBlocks, ht]
      exact List.mem_map_of_mem he
    have := s.writtenBlocks_in_range _ _ hb
    dsimp only at this
    omega
  | _ => exact hs

end Completes

/-! ### What holds of every instruction -/

/-- Settles O14: of the three outcomes only the fault sets FAULT. -/
theorem faultsArePrecise : Obligations.FaultsArePrecise := by
  intro i s t h hs ht
  obtain ⟨trap, rfl⟩ | ⟨-, rfl⟩ | hc := exec_cases h
  · exact ⟨trap, faultTaken_raise s trap⟩
  · exact absurd (hs.symm.trans ht) (by decide)
  · obtain ⟨⟨-, -, hfault, -⟩, -⟩ := hc.frame
    exact absurd (hs.symm.trans (hfault.symm.trans ht)) (by decide)

/-- An instruction that ends the run is HALT, or it faults (60_exceptions.md R148). -/
theorem exec_ends_run {i : Instr} {s t : State} (h : exec i s = .next t) (hs : s.run = true) (ht : t.run = false) :
    (i = .halt ∧ t.done = true) ∨ (t.fault = true ∧ ∃ trap, FaultTaken trap s t) := by
  obtain ⟨trap, rfl⟩ | ⟨hi, rfl⟩ | hc := exec_cases h
  · exact .inr ⟨rfl, trap, faultTaken_raise s trap⟩
  · exact .inl ⟨hi, rfl⟩
  · obtain ⟨⟨hrun, -⟩, -⟩ := hc.frame
    exact absurd (hs.symm.trans (hrun.symm.trans ht)) (by decide)

/-- A step that is the sequencer's turn is its step from the state with the turn used up (log 4). -/
theorem step_of_sequencer_side {s : State} (h : s.turns = [] ∨ ∃ rest, s.turns = .sequencer :: rest) :
    step s = sequencerStep { s with turns := s.turns.tail } := by
  obtain h | ⟨rest, h⟩ := h
  · have hs : { s with turns := s.turns.tail } = s := by rw [h, List.tail_nil, ← h]
    rw [hs, step_of_no_turn s h]
  · rw [step_of_sequencer_turn s rest h, h, List.tail_cons]

/-- Settles O15: the sequencer's turn is an instruction, or the fault of its fetch. -/
theorem runEndsOnlyByHaltOrFault : Obligations.RunEndsOnlyByHaltOrFault := by
  refine ⟨fun i s t h hs ht => exec_ends_run h hs ht, fun s t hturns h hs ht => ?_⟩
  rw [step_of_sequencer_side hturns] at h
  obtain ⟨hidle, -⟩ | ⟨-, i, hf, hstep⟩ | ⟨-, trap, -, hstep⟩ :=
    sequencerStep_cases { s with turns := s.turns.tail }
  · exact absurd (hs.symm.trans hidle) (by decide)
  · obtain ⟨rfl, hdone⟩ | hfault := exec_ends_run (hstep.symm.trans h) hs ht
    · exact .inl ⟨hf, hdone⟩
    · exact .inr hfault
  · obtain rfl := Host.Outcome.next.inj (hstep.symm.trans h)
    exact .inr ⟨rfl, trap, faultTaken_raise _ trap⟩

/-- Settles O16: no outcome of an instruction touches the host's state. -/
theorem instructionsLeaveTheHostsStateAlone : Obligations.InstructionsLeaveTheHostsStateAlone := by
  intro i s t h
  have same : SameConfig s s := ⟨rfl, rfl, rfl, rfl, rfl, rfl, rfl⟩
  obtain ⟨trap, rfl⟩ | ⟨-, rfl⟩ | hc := exec_cases h
  · exact ⟨fun _ => rfl, rfl, rfl, rfl, ⟨rfl, rfl, rfl⟩, fun _ => same⟩
  · exact ⟨fun _ => rfl, rfl, rfl, rfl, ⟨rfl, rfl, rfl⟩, fun _ => same⟩
  · obtain ⟨⟨-, -, -, -, hie⟩, ⟨hentry, -, -, hparams⟩, himem, hmodel⟩ := hc.frame
    obtain ⟨hturns, hport, hfill⟩ := hmodel
    exact ⟨State.imemWord_congr himem hfill, hie, hentry, hparams, ⟨hturns, hport, hfill⟩, hc.sameConfig⟩

/-- Settles O17: a fault and HALT write no register and no memory; an instruction that completes writes
one of its own. -/
theorem instructionsWriteOnlyTheirDestinations : Obligations.InstructionsWriteOnlyTheirDestinations := by
  intro i s t h
  obtain ⟨trap, rfl⟩ | ⟨-, rfl⟩ | hc := exec_cases h
  · exact ⟨fun _ _ => rfl, fun _ _ => rfl, fun _ _ => rfl, fun _ _ => rfl⟩
  · exact ⟨fun _ _ => rfl, fun _ _ => rfl, fun _ _ => rfl, fun _ _ => rfl⟩
  · refine ⟨hc.readA, hc.readV, fun hw x => hc.byteAt x ?_, fun x hx => hc.byteAt x hx⟩
    rw [s.writtenBlocks_of_not_writes i hw]
    exact fun b hb => absurd hb List.not_mem_nil

/-! ### The step (60_exceptions.md R134, R137) -/

/-- A step while idle leaves the state as it is (log 5). -/
theorem step_of_idle {s : State} (hturns : s.turns = []) (hidle : s.run = false) : step s = .next s := by
  rw [step_of_no_turn s hturns, sequencerStep, if_neg (by simp [hidle])]

/-- Settles O8: each of the three outcomes of an instruction is a next state, and so are a fetch fault, an idle step and
a transaction of the host. -/
theorem everyStepAnswersANextState : Obligations.EveryStepAnswersANextState := by
  have exec_next : ∀ i s, ∃ t, exec i s = .next t := fun i s =>
    let ⟨t, ht, _⟩ := exec_hasOutcome i s
    ⟨t, ht⟩
  have sequencer_next : ∀ s, ∃ t, sequencerStep s = .next t := by
    intro s
    obtain ⟨-, h⟩ | ⟨-, i, -, h⟩ | ⟨-, trap, -, h⟩ := sequencerStep_cases s
    · exact ⟨s, h⟩
    · rw [h]; exact exec_next i s
    · exact ⟨_, h⟩
  refine ⟨exec_next, fun s => ?_, fun s hturns hidle => step_of_idle hturns hidle⟩
  cases hturns : s.turns with
  | nil => rw [step_of_no_turn s hturns]; exact sequencer_next s
  | cons turn rest =>
    cases turn with
    | host a => exact ⟨_, step_of_host_turn s a rest hturns⟩
    | sequencer => rw [step_of_sequencer_turn s rest hturns]; exact sequencer_next _

/-- Settles O6: fetch answers the decoded instruction, whichever way the sequencer got its turn. -/
theorem stepRunsTheDecodedInstruction : Obligations.StepRunsTheDecodedInstruction := by
  refine ⟨fun s i hrun hpc hd => ?_, fun s a rest h => step_of_host_turn s a rest h⟩
  have hf := s.fetch_ok i hpc hd
  refine ⟨fun h => step_eq_exec_of_fetch h hrun hf, fun rest h => ?_⟩
  rw [step_of_sequencer_turn s rest h, sequencerStep_of_fetch { s with turns := rest } i hrun hf]

/-- Settles O12: fault entry writes the fault record and ends the run, and an idle step does nothing. -/
theorem faultEntryRecordsTheFault : Obligations.FaultEntryRecordsTheFault := by
  intro s trap
  refine ⟨faultTaken_raise s trap, rfl, rfl, rfl, ?_, fun h => step_of_idle h rfl⟩
  simp [State.irq]

/-- Settles O13: each code of the table. -/
theorem causeCodesAreThoseOfTheTable : Obligations.CauseCodesAreThoseOfTheTable :=
  ⟨rfl, rfl, rfl, rfl, rfl, rfl, rfl, rfl, rfl, rfl⟩

end Sys2Proof.Machine

namespace Sys2Proof.Machine

/-! ### The host port: what each target of a write does (60_exceptions.md R149 to R151) -/

variable {s : State}

theorem hostWrite_of_ctrl {off : Nat} (v : Word) (h : s.portTarget off = .csr .ctrl) :
    s.hostTurn (.write off v) = s.hostWriteCtrl v := by
  simp only [State.hostTurn, State.hostWrite, h]

theorem hostWrite_of_csr {off : Nat} {c : Csr} (v : Word) (h : s.portTarget off = .csr c) (hc : c ≠ .ctrl) :
    s.hostTurn (.write off v) = if s.run then s else s.hostWriteCsr c v := by
  cases c with
  | ctrl => exact absurd rfl hc
  | _ => simp only [State.hostTurn, State.hostWrite, h]

theorem hostWrite_of_imem {off k : Nat} (v : Word) (h : s.portTarget off = .imem k) :
    s.hostTurn (.write off v) = if s.run then s else { s with imem := Memory.write s.imem k [v] } := by
  simp only [State.hostTurn, State.hostWrite, h]

theorem hostWrite_of_dmem {off a : Nat} (v : Word) (h : s.portTarget off = .dmem a) :
    s.hostTurn (.write off v) = if s.run then s else s.storeBytes a (wordBytes v) := by
  simp only [State.hostTurn, State.hostWrite, h]

theorem hostWrite_of_nothing {off : Nat} (v : Word) (h : s.portTarget off = .nothing) :
    s.hostTurn (.write off v) = s := by
  simp only [State.hostTurn, State.hostWrite, h]

/-! ### The invariant (10_state.md R22, R30, R31; 60_exceptions.md R136) -/

theorem branchTarget_toNat (s : State) (imm16 : BitVec 16) :
    (s.branchTarget imm16).toNat = (s.pc.toNat + 4 * (imm16.signExtend 32).toNat) % 2 ^ 32 := by
  simp only [State.branchTarget, BitVec.toNat_add, BitVec.toNat_shiftLeft, Nat.shiftLeft_eq]
  omega

theorem NextPc.aligned {p : Word} (h : NextPc s p) (hs : s.pc.toNat % 4 = 0) : p.toNat % 4 = 0 := by
  obtain rfl | ⟨imm16, rfl⟩ := h
  · rw [BitVec.toNat_add]
    simp only [BitVec.ofNat_eq_ofNat, BitVec.toNat_ofNat]
    omega
  · rw [branchTarget_toNat]
    omega

/-- Every cause has one of the reported codes 1 to 10 (R136). -/
theorem Cause.code_range (c : Cause) : 1 ≤ c.code.toNat ∧ c.code.toNat ≤ 10 := by
  cases c <;> decide

/-- A fault taken while running keeps the invariant. -/
theorem stateInv_raise (hs : StateInv s) (hrun : s.run = true) (trap : Trap) : StateInv (s.raise trap) := by
  obtain ⟨hlegal, ha0, hpc, hentry, hrd, hrf, -, -, -, hmem⟩ := hs
  have hdone : s.done = false := by simpa [hrun] using hrd
  refine ⟨hlegal, ha0, hpc, hentry, by simp, by simp, by simp [hdone], by simp, fun _ => trap.cause.code_range, hmem⟩

/-- HALT keeps the invariant. -/
theorem stateInv_endRun (hs : StateInv s) (hrun : s.run = true) : StateInv s.endRun := by
  obtain ⟨hlegal, ha0, hpc, hentry, hrd, hrf, -, hc0, -, hmem⟩ := hs
  have hfault : s.fault = false := by simpa [hrun] using hrf
  exact ⟨hlegal, ha0, hpc, hentry, by simp, by simp, by simp [hfault], fun _ => hc0 hfault, by simp [hfault], hmem⟩

/-- An instruction that completes keeps the invariant. -/
theorem Completes.stateInv {i : Instr} {t : State} (h : Completes i s t) (hs : StateInv s) : StateInv t := by
  obtain ⟨hlegal, ha0, hpc, hentry, hrd, hrf, hdf, hc0, hc1, hiwf, hib, hdwf, hdb⟩ := hs
  obtain ⟨⟨hrun, hdone, hfault, hcause, -⟩, ⟨hentry', -, -, hparams⟩, himem, -⟩ := h.frame
  unfold StateInv
  rw [hparams, hentry', hrun, hdone, hfault, hcause, himem, h.slot_zero]
  exact ⟨hlegal, ha0, h.nextPc.aligned hpc, hentry, hrd, hrf, hdf, hc0, hc1, hiwf, hib, h.dmem_wf hdwf,
    h.dmem_below hdb⟩

/-- A running instruction keeps the invariant. -/
theorem stateInv_exec {i : Instr} {t : State} (hs : StateInv s) (hrun : s.run = true) (h : exec i s = .next t) :
    StateInv t := by
  obtain ⟨trap, rfl⟩ | ⟨-, rfl⟩ | hc := exec_cases h
  · exact stateInv_raise hs hrun trap
  · exact stateInv_endRun hs hrun
  · exact hc.stateInv hs

theorem stateInv_sequencerStep {t : State} (hs : StateInv s) (h : sequencerStep s = .next t) : StateInv t := by
  obtain ⟨-, hstep⟩ | ⟨hrun, i, -, hstep⟩ | ⟨hrun, trap, -, hstep⟩ := sequencerStep_cases s
  · obtain rfl := Host.Outcome.next.inj (hstep.symm.trans h)
    exact hs
  · exact stateInv_exec hs hrun (hstep.symm.trans h)
  · obtain rfl := Host.Outcome.next.inj (hstep.symm.trans h)
    exact stateInv_raise hs hrun trap

/-- Settles O10: the invariant is decidable, and the reset state is a literal. -/
theorem invariantHoldsAtReset : Obligations.InvariantHoldsAtReset := by
  unfold Obligations.InvariantHoldsAtReset
  decide

/-- The reset of registers and CSRs keeps the invariant: it takes the memories over and the rest from `State.reset`. -/
theorem stateInv_resetRegisters (hs : StateInv s) : StateInv s.resetRegisters := by
  obtain ⟨hlegal, -, -, -, -, -, -, -, -, hmem⟩ := hs
  obtain ⟨-, ha0, hpc, hentry, hrd, hrf, hdf, hc0, hc1, -⟩ := invariantHoldsAtReset
  exact ⟨hlegal, ha0, hpc, hentry, hrd, hrf, hdf, hc0, hc1, hmem⟩

theorem stateInv_softReset (hs : StateInv s) : StateInv s.softReset := by
  obtain ⟨hlegal, ha0, hpc, hentry, hrd, hrf, hdf, hc0, hc1, hiwf, hib, hdwf, hdb⟩ := stateInv_resetRegisters hs
  exact ⟨hlegal, ha0, hpc, hentry, hrd, hrf, hdf, hc0, hc1, hiwf, hib, Memory.abort_wf _ _ _ hdwf,
    Memory.abort_below _ _ _ _ hdb s.blocksInProgress_in_range⟩

theorem stateInv_powerOnReset (hs : StateInv s) : StateInv s.powerOnReset := by
  obtain ⟨hlegal, ha0, hpc, hentry, hrd, hrf, hdf, hc0, hc1, -⟩ := stateInv_resetRegisters hs
  exact ⟨hlegal, ha0, hpc, hentry, hrd, hrf, hdf, hc0, hc1, rfl, rfl, rfl, rfl⟩

/-- START puts the aligned ENTRY in the pc and clears DONE, FAULT and CAUSE (R152). -/
theorem stateInv_start (hs : StateInv s) : StateInv s.start := by
  obtain ⟨hlegal, ha0, -, hentry, -, -, -, -, -, hmem⟩ := hs
  exact ⟨hlegal, ha0, hentry, hentry, by simp, by simp, by simp, by simp, by simp, hmem⟩

theorem stateInv_hostWriteCtrl (hs : StateInv s) (v : Word) : StateInv (s.hostWriteCtrl v) := by
  have hie : StateInv { s with ie := v.getLsbD 1 } := hs
  obtain ⟨-, hw⟩ | ⟨-, -, hw⟩ | ⟨-, -, hw⟩ := s.hostWriteCtrl_cases v
  · rw [hw]; exact stateInv_softReset hs
  · rw [hw]; exact stateInv_start hie
  · rw [hw]; exact hie

/-- A write of STATUS clears DONE, and FAULT together with CAUSE (R30). -/
theorem stateInv_hostWriteStatus (hs : StateInv s) (v : Word) : StateInv (s.hostWriteStatus v) := by
  obtain ⟨hlegal, ha0, hpc, hentry, hrd, hrf, hdf, hc0, hc1, hmem⟩ := hs
  refine ⟨hlegal, ha0, hpc, hentry, ?_, ?_, ?_, ?_, ?_, hmem⟩ <;> simp only [State.hostWriteStatus]
  · simp_all
  · simp_all
  · simp_all
  · cases hclear : v.getLsbD 2 <;> simp_all
  · cases hclear : v.getLsbD 2 <;> simp_all

theorem stateInv_csrWrite (hs : StateInv s) (c : Csr) (v : Word) : StateInv (s.csrWrite c v) := by
  cases c <;> exact hs

/-- ENTRY keeps its low bits zero (R31). -/
theorem entry_toNat (v : Word) : (v.extractLsb' 2 30 ++ 0#2 : Word).toNat = v.toNat / 4 * 4 := by
  have := v.isLt
  rw [append_toNat, field_toNat]
  simp only [BitVec.toNat_ofNat]
  omega

theorem stateInv_hostWriteCsr (hs : StateInv s) (c : Csr) (v : Word) : StateInv (s.hostWriteCsr c v) := by
  cases c with
  | ctrl => exact stateInv_hostWriteCtrl hs v
  | status => exact stateInv_hostWriteStatus hs v
  | entry =>
    obtain ⟨hlegal, ha0, hpc, -, hrest⟩ := hs
    refine ⟨hlegal, ha0, hpc, ?_, hrest⟩
    simp only [State.hostWriteCsr, entry_toNat]
    omega
  | nts | dsz | src | slen | dtab | dcnt | dtab2 => exact stateInv_csrWrite hs _ v
  | pc | id | cfg | faultPc | faultInfo => exact hs

/-- A word of a memory whose size is a multiple of 4 lies inside it with its last byte (R6). -/
theorem dmem_word_fits {p : Params} (hp : p.legal) {a : Nat} (ha : a < p.dmemBytes) (h4 : a % 4 = 0) :
    a + 4 ≤ p.dmemBytes := by
  have hdvd : 2 ^ 2 ∣ p.dmemBytes := Nat.pow_dvd_pow 2 (by omega)
  omega

theorem stateInv_hostWrite (hs : StateInv s) (off : Nat) (v : Word) : StateInv (s.hostTurn (.write off v)) := by
  cases htarget : s.portTarget off with
  | csr c =>
    by_cases hc : c = .ctrl
    · subst hc
      rw [hostWrite_of_ctrl v htarget]
      exact stateInv_hostWriteCtrl hs v
    · rw [hostWrite_of_csr v htarget hc]
      split
      · exact hs
      · exact stateInv_hostWriteCsr hs c v
  | imem k =>
    rw [hostWrite_of_imem v htarget]
    split
    · exact hs
    · obtain ⟨hlegal, ha0, hpc, hentry, hrd, hrf, hdf, hc0, hc1, hiwf, hib, hdmem⟩ := hs
      exact ⟨hlegal, ha0, hpc, hentry, hrd, hrf, hdf, hc0, hc1, Memory.write_wf _ _ _ hiwf,
        Memory.write_below _ _ _ _ hib (s.portTarget_imem off k htarget), hdmem⟩
  | dmem a =>
    rw [hostWrite_of_dmem v htarget]
    split
    · exact hs
    · obtain ⟨hlegal, ha0, hpc, hentry, hrd, hrf, hdf, hc0, hc1, hiwf, hib, hdwf, hdb⟩ := hs
      obtain ⟨ha, h4⟩ := s.portTarget_dmem off a htarget
      exact ⟨hlegal, ha0, hpc, hentry, hrd, hrf, hdf, hc0, hc1, hiwf, hib, Memory.write_wf _ _ _ hdwf,
        Memory.write_below _ _ _ _ hdb (dmem_word_fits hlegal ha h4)⟩
  | nothing =>
    rw [hostWrite_of_nothing v htarget]
    exact hs

theorem stateInv_hostTurn (hs : StateInv s) (a : HostAction) : StateInv (s.hostTurn a) := by
  cases a with
  | read off => exact hs
  | write off v => exact stateInv_hostWrite hs off v
  | powerOn => exact stateInv_powerOnReset hs

/-- Settles O11: every instruction, every fault, every reset and every transaction of the host keeps the invariant. -/
theorem everyStepKeepsTheInvariant : Obligations.EveryStepKeepsTheInvariant := by
  intro s t hs h
  cases hturns : s.turns with
  | nil =>
    rw [step_of_no_turn s hturns] at h
    exact stateInv_sequencerStep hs h
  | cons turn rest =>
    have hrest : StateInv { s with turns := rest } := hs
    cases turn with
    | host a =>
      obtain rfl := Host.Outcome.next.inj ((step_of_host_turn s a rest hturns).symm.trans h)
      exact stateInv_hostTurn hrest a
    | sequencer =>
      rw [step_of_sequencer_turn s rest hturns] at h
      exact stateInv_sequencerStep hrest h

/-! ### Resets (10_state.md R45; 70_reset_and_hazards.md R159 to R161) -/

theorem ctrl_of_ie_false (hie : s.ie = false) : s.csrRead .ctrl = 0 := by
  rw [State.csrRead, State.ctrlWord, hie]
  decide

/-- With neither DONE nor FAULT, STATUS reads RUN (R30). -/
theorem status_of_not_ended (hdone : s.done = false) (hfault : s.fault = false) (hcause : s.cause = 0) :
    s.csrRead .status = if s.run then 1 else 0 := by
  rw [State.csrRead, State.statusWord, hdone, hfault, hcause]
  cases s.run <;> decide

/-- Every register and CSR is at its reset value, whatever the memories and the model's own fields are (R45). -/
theorem atResetValues_resetRegisters (s : State) (imem : List (Nat × Word)) (dmem : List Host.Cell)
    (fillSeed freshSeed : Nat) :
    AtResetValues { s.resetRegisters with imem, dmem, fillSeed, freshSeed } := by
  refine ⟨fun q => ?_, fun q k => ?_, rfl, rfl, rfl, ctrl_of_ie_false rfl, rfl, rfl, rfl, rfl,
    status_of_not_ended rfl rfl rfl, rfl, rfl, rfl, rfl, rfl, rfl, rfl, rfl, rfl, rfl, rfl, rfl⟩
  · simp [State.readA, State.resetRegisters, State.reset]
  · by_cases hk : k < 32 <;> simp [State.readV, State.resetRegisters, State.reset, Tile.byte, hk]

theorem softReset_atResetValues (s : State) : AtResetValues s.softReset := atResetValues_resetRegisters s _ _ _ _

/-- A soft reset keeps a byte that the interrupted instruction was not writing (R161). -/
theorem softReset_byteAt {x : Nat} (h : ∀ b ∈ s.blocksInProgress, ¬ (b.1 ≤ x ∧ x < b.1 + b.2)) :
    s.softReset.byteAt x = s.byteAt x :=
  congrArg (·.getD (Config.unwrittenByte s.fillSeed x)) (Memory.lookup_abort _ _ _ x h)

/-- A soft reset that interrupts no writing instruction keeps DMEM (R161). -/
theorem softReset_sameDmem (h : s.blocksInProgress = []) : SameDmem s s.softReset :=
  fun _ => softReset_byteAt (by simp [h])

/-- Settles O9: both resets take every register and CSR from `State.reset` and the parameters from before. -/
theorem resetLeavesTheResetValues : Obligations.ResetLeavesTheResetValues := by
  refine ⟨atResetValues_resetRegisters State.reset [] [] 0 1, rfl, fun s => ?_⟩
  exact ⟨atResetValues_resetRegisters s _ _ _ _, rfl, softReset_atResetValues s, rfl, fun _ => rfl,
    fun hidle => softReset_sameDmem (s.blocksInProgress_idle hidle)⟩

end Sys2Proof.Machine

namespace Sys2Proof.Machine

variable {s : State}

/-! ### Where a host offset leads, the rest of the map (60_exceptions.md R149) -/

/-- Only the four offsets of a CSR lead to it (R149). -/
theorem portTarget_eq_csr {off : Nat} {c : Csr} (h : s.portTarget off = .csr c) : off / 4 = c.number.toNat := by
  unfold State.portTarget at h
  dsimp only at h
  split at h
  · rename_i hlow
    split at h
    · rename_i d hd
      cases h
      rw [← csrOf_eq_some_iff.1 hd, BitVec.toNat_ofNat]
      omega
    · cases h
  · split at h
    · split at h <;> cases h
    · split at h
      · split at h <;> cases h
      · cases h

/-- No CSR has a number from 0x0F to 0xFF (10_state.md R44). -/
theorem csrOf_unimplemented {n : Nat} (hlo : 0x0F ≤ n) (hhi : n < 0x100) : csrOf (BitVec.ofNat 8 n) = none := by
  cases h : csrOf (BitVec.ofNat 8 n) with
  | none => rfl
  | some c =>
    have hn := congrArg BitVec.toNat (csrOf_eq_some_iff.1 h)
    rw [BitVec.toNat_ofNat] at hn
    have hc : c.number.toNat < 0x0F := by cases c <;> decide
    omega

/-- An unimplemented CSR, and the gap between the CSRs and IMEM, is nothing (R44, R149). -/
theorem portTarget_unimplemented {off : Nat} (hlo : 0x3C ≤ off) (hhi : off < 0x10000) :
    s.portTarget off = .nothing := by
  unfold State.portTarget
  dsimp only
  split
  · rw [csrOf_unimplemented (by omega) (by omega)]
  · rw [if_neg (by omega), if_neg (by omega)]

/-- Above the end of IMEM is nothing (R149). -/
theorem portTarget_above_imem {off k : Nat} (h : off / 4 = 0x4000 + k) (hw : k < 0x4000) (hk : s.params.imemWords ≤ k) :
    s.portTarget off = .nothing := by
  have e : (off / 4 * 4 - 0x10000) / 4 = k := by omega
  unfold State.portTarget
  dsimp only
  rw [if_neg (by omega), if_pos (by omega), e, if_neg (by omega)]

/-- Above the end of DMEM is nothing (R149). -/
theorem portTarget_above_dmem {off a : Nat} (h : off / 4 * 4 = 0x100000 + a) (hw : a < 0x100000)
    (ha : s.params.dmemBytes ≤ a) : s.portTarget off = .nothing := by
  have e : off / 4 * 4 - 0x100000 = a := by omega
  unfold State.portTarget
  dsimp only
  rw [if_neg (by omega), if_neg (by omega), if_pos (by omega), e, if_neg (by omega)]

/-- Outside the windows is nothing (R149). -/
theorem portTarget_outside {off : Nat} (h : (0x20000 ≤ off ∧ off < 0x100000) ∨ 0x200000 ≤ off) :
    s.portTarget off = .nothing := by
  unfold State.portTarget
  dsimp only
  rw [if_neg (by omega), if_neg (by omega), if_neg (by omega)]

/-! ### What the host reads (60_exceptions.md R149, R151) -/

theorem hostRead_of_csr {off : Nat} {c : Csr} (h : s.portTarget off = .csr c) :
    (s.hostTurn (.read off)).portData = s.csrRead c := by
  simp only [State.hostTurn, State.hostRead, State.portWord, h]

theorem hostRead_of_imem {off k : Nat} (h : s.portTarget off = .imem k) (hidle : s.run = false) :
    (s.hostTurn (.read off)).portData = s.imemWord k := by
  simp only [State.hostTurn, State.hostRead, State.portWord, h, hidle, Bool.false_eq_true, if_false]

theorem hostRead_of_dmem {off a : Nat} (h : s.portTarget off = .dmem a) (hidle : s.run = false) :
    (s.hostTurn (.read off)).portData = s.wordAt a := by
  simp only [State.hostTurn, State.hostRead, State.portWord, h, hidle, Bool.false_eq_true, if_false]

theorem hostRead_of_nothing {off : Nat} (h : s.portTarget off = .nothing) :
    (s.hostTurn (.read off)).portData = 0 := by
  simp only [State.hostTurn, State.hostRead, State.portWord, h]

/-- Settles O57: each window's offsets lead where R149 says, and each place reads as it is. -/
theorem hostReadsThroughTheWindows : Obligations.HostReadsThroughTheWindows := by
  intro s off _
  refine ⟨fun c h => ?_, fun hlo hhi => ?_, fun k h hw => ⟨fun hk hidle => ?_, fun hk => ?_⟩, fun hlo hhi => ?_,
    fun a h hw => ⟨fun ha hidle => ?_, fun ha => ?_⟩, fun hlo => ?_⟩
  · exact hostRead_of_csr (s.portTarget_csr off c h)
  · exact hostRead_of_nothing (portTarget_unimplemented hlo hhi)
  · exact hostRead_of_imem (s.portTarget_imem_word off k h hw hk) hidle
  · exact hostRead_of_nothing (portTarget_above_imem h hw hk)
  · exact hostRead_of_nothing (portTarget_outside (.inl ⟨hlo, hhi⟩))
  · exact hostRead_of_dmem (s.portTarget_dmem_word off a h hw ha) hidle
  · exact hostRead_of_nothing (portTarget_above_dmem h hw ha)
  · exact hostRead_of_nothing (portTarget_outside (.inr hlo))

/-! ### What the host writes (60_exceptions.md R149 to R152) -/

/-- A write of CTRL at any of its four offsets (R149). -/
theorem hostWrite_ctrl {off : Nat} (v : Word) (h : off / 4 = 0) : s.hostTurn (.write off v) = s.hostWriteCtrl v :=
  hostWrite_of_ctrl v (s.portTarget_csr off .ctrl h)

/-- While the sequencer is idle a CSR but CTRL takes the write (R149). -/
theorem hostWrite_csr {off : Nat} {c : Csr} (v : Word) (hidle : s.run = false) (h : off / 4 = c.number.toNat)
    (hc : c ≠ .ctrl) : s.hostTurn (.write off v) = s.hostWriteCsr c v := by
  rw [hostWrite_of_csr v (s.portTarget_csr off c h) hc, hidle]
  rfl

theorem hostWriteCtrl_of_srst {v : Word} (h : v.getLsbD 2 = true) : s.hostWriteCtrl v = s.softReset := by
  rw [State.hostWriteCtrl, if_pos h]

theorem hostWriteCtrl_of_start {v : Word} (h0 : v.getLsbD 0 = true) (h2 : v.getLsbD 2 = false) (hidle : s.run = false) :
    s.hostWriteCtrl v = { s with ie := v.getLsbD 1 }.start := by
  obtain ⟨h, -⟩ | ⟨-, -, h⟩ | ⟨-, h, -⟩ := s.hostWriteCtrl_cases v
  · exact absurd (h2.symm.trans h) (by decide)
  · exact h
  · exact absurd ⟨h0, hidle⟩ h

/-- With no reset and no start the write only sets IE (R29). -/
theorem hostWriteCtrl_of_ie {v : Word} (h2 : v.getLsbD 2 = false) (h : ¬ (v.getLsbD 0 = true ∧ s.run = false)) :
    s.hostWriteCtrl v = { s with ie := v.getLsbD 1 } := by
  obtain ⟨h', -⟩ | ⟨-, h', -⟩ | ⟨-, -, h'⟩ := s.hostWriteCtrl_cases v
  · exact absurd (h2.symm.trans h') (by decide)
  · exact absurd h' h
  · exact h'

/-- Settles O55: the write is a start of the idle sequencer, and of a running one it only sets IE. -/
theorem startBeginsARunAtEntry : Obligations.StartBeginsARunAtEntry := by
  intro s off v hoff h0 h2
  have hctrl := hostWrite_ctrl (s := s) v (show off / 4 = 0 by omega)
  refine ⟨fun hidle => ⟨_, hctrl.trans (hostWriteCtrl_of_start h0 h2 hidle), ?_⟩, fun hrun => ?_⟩
  · exact ⟨rfl, rfl, rfl, rfl, rfl, rfl, rfl, ⟨rfl, rfl, rfl, rfl⟩, ⟨rfl, rfl, rfl, rfl, rfl, rfl, rfl⟩, fun _ => rfl,
      fun _ => rfl, fun _ => rfl, fun _ => rfl⟩
  · exact hctrl.trans (hostWriteCtrl_of_ie h2 (by simp [hrun]))

/-- Settles O56: the offset does not lead to CTRL, and a running sequencer guards every other target. -/
theorem hostWritesWhileRunningAreDiscarded : Obligations.HostWritesWhileRunningAreDiscarded := by
  intro s off v hrun hoff
  cases htarget : s.portTarget off with
  | csr c =>
    have hc : c ≠ .ctrl := by
      rintro rfl
      have : off / 4 = 0 := portTarget_eq_csr htarget
      omega
    rw [hostWrite_of_csr v htarget hc, if_pos hrun]
  | imem k => rw [hostWrite_of_imem v htarget, if_pos hrun]
  | dmem a => rw [hostWrite_of_dmem v htarget, if_pos hrun]
  | nothing => exact hostWrite_of_nothing v htarget

/-- A CSR that is RW to the program takes the host's write as it takes the program's (R26, R27). -/
theorem hostWriteCsr_of_programWritable {c : Csr} (v : Word) (h : c.programWritable = true) :
    s.hostWriteCsr c v = s.csrWrite c v := by
  cases c <;> first | rfl | cases h

/-- Reading IMEM after a write of one word. -/
theorem imemWord_write (s : State) (k : Nat) (v : Word) (x : Nat) :
    ({ s with imem := Memory.write s.imem k [v] } : State).imemWord x = if x = k then v else s.imemWord x := by
  simp only [State.imemWord, Memory.lookup_write, List.length_singleton]
  by_cases h : x = k
  · subst h
    simp
  · rw [if_neg h, if_neg (by omega)]

theorem imemWords_le {p : Params} (hp : p.legal) : p.imemWords ≤ 0x4000 :=
  Nat.pow_le_pow_right (n := 2) (j := 14) (by omega) (by omega)

theorem dmemBytes_le {p : Params} (hp : p.legal) : p.dmemBytes ≤ 0x100000 :=
  Nat.pow_le_pow_right (n := 2) (j := 20) (by omega) (by omega)

/-- Settles O58: each window's offsets lead where R149 says, and each place takes the write as R26 to R31 say. -/
theorem hostWritesThroughTheWindows : Obligations.HostWritesThroughTheWindows := by
  intro s off v hlegal hidle
  have himem := imemWords_le hlegal
  have hdmem := dmemBytes_le hlegal
  refine ⟨fun k h hk => ?_, fun a h ha => ?_, fun c h hc => ?_, fun h h0 h2 => ?_, fun h => ?_, fun h => ?_,
    fun k h hw hk => ?_, fun a h hw ha => ?_, fun h => ?_⟩
  · have hw := hostWrite_of_imem v (s.portTarget_imem_word off k h (by omega) hk)
    rw [if_neg (by simp [hidle])] at hw
    exact ⟨_, hw, rfl, fun _ => rfl, imemWord_write s k v⟩
  · have hw := hostWrite_of_dmem v (s.portTarget_dmem_word off a h (by omega) ha)
    rw [if_neg (by simp [hidle])] at hw
    refine ⟨_, hw, rfl, fun _ => rfl, fun x => (s.byteAt_storeBytes a _ x).trans ?_⟩
    rw [wordBytes_length]
    exact ite_congr rfl (fun hx => wordBytes_getD v (x - a) (by omega)) fun _ => rfl
  · have hne : c ≠ .ctrl := by
      rintro rfl
      cases hc
    rw [hostWrite_csr v hidle h hne, hostWriteCsr_of_programWritable v hc]
  · rw [hostWrite_ctrl v h, hostWriteCtrl_of_ie h2 fun ⟨h1, _⟩ => absurd (h0.symm.trans h1) (by decide)]
  · exact ⟨_, entry_toNat v, hostWrite_csr (c := .entry) v hidle h (by decide)⟩
  · exact hostWrite_csr (c := .status) v hidle h (by decide)
  · exact hostWrite_of_nothing v (portTarget_above_imem h hw hk)
  · exact hostWrite_of_nothing v (portTarget_above_dmem h hw ha)
  · obtain h | h | ⟨hlo, hhi⟩ | h | h := h
    · exact hostWrite_csr (c := .pc) v hidle h (by decide)
    · obtain h | h | h | h : off / 4 = 4 ∨ off / 4 = 5 ∨ off / 4 = 6 ∨ off / 4 = 7 := by omega
      · exact hostWrite_csr (c := .id) v hidle h (by decide)
      · exact hostWrite_csr (c := .cfg) v hidle h (by decide)
      · exact hostWrite_csr (c := .faultPc) v hidle h (by decide)
      · exact hostWrite_csr (c := .faultInfo) v hidle h (by decide)
    · exact hostWrite_of_nothing v (portTarget_unimplemented hlo hhi)
    · exact hostWrite_of_nothing v (portTarget_outside (.inl h))
    · exact hostWrite_of_nothing v (portTarget_outside (.inr h))

/-! ### Soft reset by the host (70_reset_and_hazards.md R161) -/

theorem blocksInProgress_of_trap {trap : Trap} (hf : s.fetch = .error trap) : s.blocksInProgress = [] := by
  cases hrun : s.run
  · exact s.blocksInProgress_idle hrun
  · simp [State.blocksInProgress, hf]

/-- The blocks in progress are among those of the instruction at the pc (log 9). -/
theorem blocksInProgress_subset {i : Instr} (hf : s.fetch = .ok i) : s.blocksInProgress ⊆ s.writtenBlocks i := by
  cases hrun : s.run
  · rw [s.blocksInProgress_idle hrun]
    exact List.nil_subset _
  · rw [s.blocksInProgress_running i hrun hf]
    exact List.Subset.refl _

/-- Settles O59: the write is a soft reset, which touches only the blocks of the instruction at the pc. -/
theorem softResetKeepsMemory : Obligations.SoftResetKeepsMemory := by
  intro s off v hoff h2
  have hreset := (hostWrite_ctrl (s := s) v (show off / 4 = 0 by omega)).trans (hostWriteCtrl_of_srst h2)
  refine ⟨_, hreset, softReset_atResetValues s, rfl, fun _ => rfl, fun hidle => ?_, fun trap hf => ?_,
    fun i hf hw => ?_, fun i x hf hx => ?_⟩
  · exact softReset_sameDmem (s.blocksInProgress_idle hidle)
  · exact softReset_sameDmem (blocksInProgress_of_trap hf)
  · refine softReset_sameDmem (List.subset_nil.1 ?_)
    rw [← s.writtenBlocks_of_not_writes i hw]
    exact blocksInProgress_subset hf
  · exact softReset_byteAt fun b hb => hx b (blocksInProgress_subset hf hb)

end Sys2Proof.Machine

namespace Sys2Proof.Machine

/-! ### Sequencing and scalar arithmetic (44_sequencer.md R119 to R128) -/

theorem isTarget_branchTarget (s : State) (imm16 : BitVec 16) : IsTarget s imm16 (s.branchTarget imm16) := by
  have hsext := signExtend_toNat imm16 (by omega)
  unfold IsTarget
  rw [branchTarget_toNat]
  push_cast
  omega

/-- An instruction that writes a scalar register and goes on in sequence. -/
theorem wroteA_advance (s : State) (r : AReg) (x : Word) : WroteA r x s (s.writeA r x).advance :=
  wroteA_setPc s r x (s.pc + 4)

/-- Settles O19: NOP moves the pc. -/
theorem nopOnlyAdvances : Obligations.NopOnlyAdvances :=
  fun s => ⟨s.advance, rfl, rfl, onlyPc_setPc s _⟩

/-- Settles O20: HALT writes RUN and DONE. -/
theorem haltEndsTheRun : Obligations.HaltEndsTheRun := by
  intro s
  refine ⟨s.endRun, rfl, rfl, rfl, rfl, rfl, ?_, rfl, rfl, rfl, ⟨rfl, rfl, rfl, rfl⟩,
    ⟨rfl, rfl, rfl, rfl, rfl, rfl, rfl⟩, fun _ => rfl, fun _ => rfl, fun _ => rfl, fun _ => rfl, ⟨rfl, rfl, rfl⟩, rfl⟩
  simp [State.irq]

/-- Settles O21: both move the pc alone, to the target or in sequence. -/
theorem jumpAndBranchReachTheirTargets : Obligations.JumpAndBranchReachTheirTargets := by
  refine ⟨fun imm16 s => ⟨_, rfl, isTarget_branchTarget s imm16, onlyPc_setPc s _⟩, fun ra rb imm16 s => ?_⟩
  refine ⟨_, rfl, onlyPc_setPc s _, fun hne => ?_, fun heq => ?_⟩
  · rw [State.setPc_pc, if_pos hne]
    exact isTarget_branchTarget s imm16
  · rw [State.setPc_pc, if_neg (not_not.2 heq)]

/-- Settles O22: DBNZ writes the decremented counter and tests it; A0 decremented is 0xFFFF_FFFF. -/
theorem dbnzDecrementsAndBranches : Obligations.DbnzDecrementsAndBranches := by
  intro ra imm16 s
  have taken : s.readA ra - 1 ≠ 0 →
      IsTarget s imm16 (if s.readA ra - 1 ≠ 0 then s.branchTarget imm16 else s.pc + 4) := by
    intro hne
    rw [if_pos hne]
    exact isTarget_branchTarget s imm16
  refine ⟨_, _, rfl, rfl, wroteA_setPc s ra _ _, taken, fun heq => if_neg (not_not.2 heq), ?_⟩
  rintro rfl
  exact taken (by rw [State.readA_zero]; decide)

/-- Settles O23: the immediate is zero-extended by LI, and stands above the kept half in LIH. -/
theorem liAndLihLoadImmediates : Obligations.LiAndLihLoadImmediates := by
  refine ⟨fun ra imm16 s => ⟨_, _, rfl, ?_, wroteA_advance s ra _, rfl⟩,
    fun ra imm16 s => ⟨_, _, rfl, ?_, wroteA_advance s ra _, rfl⟩⟩
  · have := imm16.isLt
    rw [BitVec.toNat_setWidth, Nat.mod_eq_of_lt (by omega)]
  · rw [append_toNat, field_toNat, Nat.pow_zero, Nat.div_one]

/-- Settles O24: word addition is addition modulo 2^32, and so is sign extension. -/
theorem addiAndAddAreModular : Obligations.AddiAndAddAreModular := by
  refine ⟨fun ra rb imm16 s => ⟨_, _, rfl, ?_, wroteA_advance s ra _, rfl⟩,
    fun ra rb rc s => ⟨_, _, rfl, BitVec.toNat_add _ _, wroteA_advance s ra _, rfl⟩⟩
  have hsext := signExtend_toNat imm16 (by omega)
  rw [BitVec.toNat_add]
  push_cast
  omega

/-! ### Accesses (20_memory.md section 3; 42_tile_memory.md R111) -/

/-- Settles O25: an effective address is the base plus the sign-extended offset, added as words. -/
theorem effectiveAddressesWrap : Obligations.EffectiveAddressesWrap := by
  refine ⟨fun s rb imm16 => ?_, fun s ra imm12 => ?_, rfl, rfl, rfl, rfl⟩
  · have hsext := signExtend_toNat imm16 (by omega)
    rw [State.ea16, BitVec.toNat_add]
    push_cast
    omega
  · have hsext := signExtend_toNat imm12 (by omega)
    rw [State.ea12, BitVec.toNat_add]
    push_cast
    omega

theorem AccessOk.checkAccess {s : State} {ea : Word} {n : Nat} (h : AccessOk s ea n) :
    s.checkAccess ea n = .ok ea.toNat :=
  s.checkAccess_ok ea n h.1 h.2

/-- An instruction whose access passes its checks goes on at the effective address. -/
theorem exec_of_access {i : Instr} {s : State} {ea : Word} {n : Nat} {k : Nat → State} (h : AccessOk s ea n)
    (hi : exec i s = s.orRaise (s.checkAccess ea n) k) : exec i s = .next (k ea.toNat) := by
  rw [hi, h.checkAccess, State.orRaise_ok]

theorem raises_of_exec {i : Instr} {s : State} {trap : Trap} (h : exec i s = .next (s.raise trap)) : Raises i trap s :=
  ⟨_, h, faultTaken_raise s trap⟩

/-- An instruction whose access fails a check raises that check's fault, MISALIGNED first (R52 to R54). -/
theorem raises_of_bad_access {i : Instr} {s : State} {ea : Word} {n : Nat} {k : Nat → State}
    (hi : exec i s = s.orRaise (s.checkAccess ea n) k) :
    (ea.toNat % n ≠ 0 → Raises i ⟨.misaligned, ea⟩ s) ∧
      (ea.toNat % n = 0 → s.params.dmemBytes < ea.toNat + n → Raises i ⟨.memRange, ea⟩ s) := by
  refine ⟨fun ha => raises_of_exec ?_, fun ha hr => raises_of_exec ?_⟩
  · rw [hi, s.checkAccess_misaligned ea n ha, State.orRaise_error]
  · rw [hi, s.checkAccess_range ea n ha hr, State.orRaise_error]

/-- Settles O28: all six loads and stores make the two checks first. -/
theorem badAccessesRaiseTheirFaults : Obligations.BadAccessesRaiseTheirFaults := by
  rintro s i ea n hwf (⟨ra, rb, imm16, rfl | rfl, rfl, rfl⟩ | ⟨w, v0, ra, imm12, rfl | rfl, rfl, rfl⟩ |
    ⟨sz, v0, ra, lane, imm12, rfl | rfl, rfl, rfl⟩)
  · exact raises_of_bad_access rfl
  · exact raises_of_bad_access rfl
  · exact raises_of_bad_access rfl
  · exact raises_of_bad_access rfl
  · exact raises_of_bad_access (s.ifLegal_of_wf _ _ hwf)
  · exact raises_of_bad_access (s.ifLegal_of_wf _ _ hwf)

/-! ### Scalar memory (44_sequencer.md R129, R130) -/

/-- Settles O26: the register gets the word at the effective address. -/
theorem ldwLoadsTheWord : Obligations.LdwLoadsTheWord := by
  intro ra rb imm16 s h
  exact ⟨_, _, exec_of_access h rfl, wordOfBytes_toNat _ _ _ _, wroteA_advance s ra _, rfl⟩

/-- A store changes the bytes of its block and moves the pc. -/
theorem onlyDmem_advance (s : State) (a : Nat) {n : Nat} (bs : List Byte) (hn : bs.length = n) :
    OnlyDmem a n s (s.storeBytes a bs).advance := by
  subst hn
  exact onlyDmem_setPc s a bs (s.pc + 4)

/-- A stored byte reads back. -/
theorem byteAt_storeBytes_advance (s : State) (a : Nat) {n k : Nat} (bs : List Byte) (hn : bs.length = n) (hk : k < n) :
    (s.storeBytes a bs).advance.byteAt (a + k) = bs.getD k 0 := by
  rw [State.byteAt_advance, State.byteAt_storeBytes, if_pos (by omega), Nat.add_sub_cancel_left]

/-- Settles O27: the block holds the register's four bytes. -/
theorem stwStoresTheWord : Obligations.StwStoresTheWord := by
  intro ra rb imm16 s h
  refine ⟨_, exec_of_access h rfl, fun k hk => ?_, rfl, onlyDmem_advance s _ _ rfl⟩
  rw [byteAt_storeBytes_advance s _ _ rfl hk, wordBytes_getD _ k hk, wordByte_toNat]

/-! ### CSRs (10_state.md R28 to R43; 44_sequencer.md R131, R132) -/

/-- Settles O29: CSRR writes what the CSR reads; in a running program DONE, FAULT and CAUSE are 0. -/
theorem csrrReadsTheCsr : Obligations.CsrrReadsTheCsr := by
  intro ra csr s
  obtain ⟨hread, -⟩ := wroteA_advance s ra (s.csrRead csr)
  refine ⟨_, rfl, wroteA_advance s ra _, rfl, ?_, ?_⟩
  · rintro rfl hra
    exact hread hra
  · rintro rfl hra ⟨-, -, -, -, hrd, hrf, -, hc0, -⟩ hrun
    have hdone : s.done = false := by simpa [hrun] using hrd
    have hfault : s.fault = false := by simpa [hrun] using hrf
    rw [hread hra, status_of_not_ended hdone hfault (hc0 hfault), if_pos hrun]

@[simp] theorem bitOf_toNat (b : Bool) : (bitOf b).toNat = b.toNat := by cases b <;> rfl

/-- Settles O30: STATUS, CTRL and CFG are their fields side by side; the others are one field. -/
theorem csrsReadTheirFields : Obligations.CsrsReadTheirFields := by
  intro s
  refine ⟨?_, ?_, rfl, rfl, rfl, fun hlegal => ?_, rfl, rfl, rfl, rfl, rfl, rfl, rfl, rfl, rfl⟩
  · simp only [State.csrRead, State.ctrlWord, append_toNat, bitOf_toNat, BitVec.toNat_ofNat]
    omega
  · simp only [State.csrRead, State.statusWord, append_toNat, bitOf_toNat, BitVec.toNat_ofNat]
    omega
  · simp only [State.csrRead, State.cfgWord, append_toNat, BitVec.toNat_ofNat]
    omega

theorem mem_writableCsrs_iff {c : Csr} :
    c ∈ [Csr.nts, .dsz, .src, .slen, .dtab, .dcnt, .dtab2] ↔ c.programWritable = true := by
  cases c <;> decide

/-- A writable CSR reads back what was written, and no other CSR but PC changes (10_state.md R37 to R43). -/
theorem csrRead_csrWrite (s : State) (c d : Csr) (x : Word) (hc : c.programWritable = true) :
    (s.csrWrite c x).csrRead d = if d = c then x else s.csrRead d := by
  cases c <;> first | (cases d <;> rfl) | cases hc

/-- Moving the pc changes no CSR but PC. -/
theorem csrRead_advance (s : State) {d : Csr} (hd : d ≠ .pc) : s.advance.csrRead d = s.csrRead d := by
  cases d <;> first | rfl | exact absurd rfl hd

/-- CSRW of a writable CSR writes it and goes on (R132). -/
theorem exec_csrw_of_writable {ra : AReg} {c : Csr} (s : State) (h : c.programWritable = true) :
    exec (.csrw ra c) s = .next (s.csrWrite c (s.readA ra)).advance :=
  s.ifLegal_of_wf (.csrw ra c) _ h

/-- Settles O31: the operand check of CSRW is that the CSR is writable, and the write touches that CSR alone. -/
theorem csrwWritesOnlyWritableCsrs : Obligations.CsrwWritesOnlyWritableCsrs := by
  intro ra csr s
  refine ⟨fun h => ?_, fun h => raises_of_exec (exec_of_not_wellFormed ?_ s)⟩
  · have hw := mem_writableCsrs_iff.1 h
    have hc : Completes (.csrw ra csr) s (s.csrWrite csr (s.readA ra)).advance := .csr rfl
    obtain ⟨hrun, hcontrol, himem, hturns, hport, hfill⟩ := hc.frame
    have hread : ∀ d, d ≠ .pc →
        (s.csrWrite csr (s.readA ra)).advance.csrRead d = if d = csr then s.readA ra else s.csrRead d :=
      fun d hd => (csrRead_advance _ hd).trans (csrRead_csrWrite s csr d _ hw)
    have hpc : csr ≠ .pc := by
      rintro rfl
      cases hw
    refine ⟨_, exec_csrw_of_writable s hw, ?_, by simp, fun d hd hdpc => ?_, hrun, hcontrol,
      fun q => hc.readA q (by simp [scalarDest]), fun q => hc.readV q (by simp [tileDest]),
      fun x => hc.byteAt x (by simp [State.writtenBlocks]), State.imemWord_congr himem hfill, ⟨hturns, hport, hfill⟩,
      by simp⟩
    · rw [hread csr hpc, if_pos rfl]
    · rw [hread d hdpc, if_neg hd]
  · exact Bool.eq_false_of_not_eq_true (mt mem_writableCsrs_iff.2 h)

end Sys2Proof.Machine

namespace Sys2Proof

/-! ### Tiles: bytes past the end, and a run of bytes replaced -/

/-- A tile has no byte past B[31]. -/
theorem Tile.byte_of_le (t : Tile) {k : Nat} (h : 32 ≤ k) : t.byte k = 0 := by
  simp [Tile.byte, Nat.not_lt.2 h]

/-- Writing a view changes only the bytes it names (00_scope.md R9). -/
theorem Tile.byte_setBytes (t : Tile) {off : Nat} {bs : List Byte} (h : off + bs.length ≤ 32) (k : Nat) :
    (t.setBytes off bs).byte k = if off ≤ k ∧ k < off + bs.length then bs.getD (k - off) 0 else t.byte k := by
  rw [Tile.setBytes, Tile.byte_ofBytes]
  split
  · rfl
  · rw [t.byte_of_le (by omega), if_neg (by omega)]

theorem Width.bytes_le (w : Width) : w.bytes ≤ 32 := by cases w <;> decide

/-- A legal lane lies inside the register (30_encoding.md R73). -/
theorem lane_fits {sz : ElemSize} {lane : Fin 8} (h : sz.laneFits lane = true) :
    sz.bytes * lane.val + sz.bytes ≤ 32 := by
  have := lane.isLt
  cases sz with
  | d => simp only [ElemSize.bytes]; omega
  | q =>
    have : lane.val < 4 := of_decide_eq_true h
    simp only [ElemSize.bytes]
    omega

end Sys2Proof

namespace Sys2Proof.Machine

/-! ### Tile memory (42_tile_memory.md R111 to R115) -/

/-- A tile register that an instruction writes reads back. -/
@[simp] theorem readV_writeV_advance (s : State) (r : VReg) (t : Tile) : (s.writeV r t).advance.readV r = t := by
  rw [State.readV_advance, State.readV_writeV, if_pos rfl]

/-- An instruction that writes a tile register and goes on in sequence. -/
theorem onlyV_advance (s : State) (r : VReg) (t : Tile) : OnlyV [r] s (s.writeV r t).advance :=
  onlyV_setPc s r t (s.pc + 4)

/-- Settles O32: the tile is built from the bytes at the effective address. -/
theorem vldLoadsTheTile : Obligations.VldLoadsTheTile := by
  intro w v0 ra imm12 s h
  have hw := w.bytes_le
  refine ⟨_, exec_of_access h rfl, fun k hk => ?_, fun k hk => ?_, rfl, onlyV_advance s v0 _⟩
  · rw [readV_writeV_advance, Tile.byte_ofBytes_of_lt _ (by omega), if_pos hk]
  · rw [readV_writeV_advance, Tile.byte_ofBytes, if_neg (by omega : ¬ k < w.bytes), ite_self]

/-- Settles O33: the block is the tile's bytes in order. -/
theorem vstStoresTheTile : Obligations.VstStoresTheTile := by
  intro w v0 ra imm12 s h
  refine ⟨_, exec_of_access h rfl, fun k hk => ?_, rfl, onlyDmem_advance s _ _ (by simp)⟩
  rw [byteAt_storeBytes_advance s _ _ (by simp) hk]
  simp [List.getD_eq_getElem?_getD, hk]

/-- Settles O34: the element's bytes replace the lane's, which lies inside the register. -/
theorem vldlLoadsOneElement : Obligations.VldlLoadsOneElement := by
  intro sz v0 ra lane imm12 s hlane h
  have hfits : sz.bytes * lane.val + (s.bytesAt (s.ea12 ra imm12).toNat sz.bytes).length ≤ 32 := by
    rw [State.bytesAt_length]
    exact lane_fits hlane
  refine ⟨_, exec_of_access h (s.ifLegal_of_wf _ _ hlane), fun k hk => ?_, fun k hk => ?_, rfl, onlyV_advance s v0 _⟩
  · rw [readV_writeV_advance, Tile.byte_setBytes _ hfits, State.bytesAt_length, if_pos (by omega),
      Nat.add_sub_cancel_left, s.bytesAt_getD _ _ _ hk]
  · rw [readV_writeV_advance, Tile.byte_setBytes _ hfits, State.bytesAt_length, if_neg hk]

/-- Settles O35: the block is the lane's bytes in order. -/
theorem vstlStoresOneElement : Obligations.VstlStoresOneElement := by
  intro sz v0 ra lane imm12 s hlane h
  refine ⟨_, exec_of_access h (s.ifLegal_of_wf _ _ hlane), fun k hk => ?_, rfl, onlyDmem_advance s _ _ (by simp)⟩
  rw [byteAt_storeBytes_advance s _ _ (by simp) hk]
  simp [List.getD_eq_getElem?_getD, hk]

/-! ### The transpose primitives (41_transpose.md R98 to R109) -/

/-- Settles O36: the permutation P exchanges the doubleword and the byte. -/
theorem tr4bTransposesBytes : Obligations.Tr4bTransposesBytes := by
  intro w v0 v1 s
  refine ⟨_, rfl, fun h i j hh hi hj => ?_, ?_, rfl, onlyV_advance s v0 _⟩
  · rw [readV_writeV_advance, byte_tr4bTile w _ h j i hh hj hi]
  · rw [readV_writeV_advance]
    exact highZero_byHalves w _

/-- Doubleword j of SHUFD is the doubleword its selector names (R100). -/
theorem dword_shufdTile (w : Width) (t1 t2 : Tile) (imm8 : BitVec 8) (h j : Nat) (hh : HasHalf w h) (hj : j < 4) :
    (shufdTile w t1 t2 imm8).dword (4 * h + j) =
      (if j < 2 then t1 else t2).dword (4 * h + imm8.toNat / 2 ^ (2 * j) % 4) := by
  rw [shufdTile, dword_byHalvesD w _ h j hh hj, selector_eq]

/-- Settles O37: the four selectors of a half, read from the immediate. -/
theorem shufdSelectsDoublewords : Obligations.ShufdSelectsDoublewords := by
  intro w v0 v1 v2 imm8 s
  refine ⟨_, rfl, fun h hh => ?_, ?_, rfl, onlyV_advance s v0 _⟩
  · have dword := fun j hj => dword_shufdTile w (s.readV v1) (s.readV v2) imm8 h j hh hj
    rw [readV_writeV_advance]
    refine ⟨?_, dword 1 (by omega), dword 2 (by omega), dword 3 (by omega)⟩
    have := dword 0 (by omega)
    rwa [Nat.mul_zero, Nat.pow_zero, Nat.div_one] at this
  · rw [readV_writeV_advance]
    exact highZero_byHalvesD w _

/-- TR4D writes the four columns, TR8B its four outputs, each to its register, and nothing else. -/
theorem readV_writeRows_pick {v0 v1 v2 v3 : VReg} (s : State) (f : Nat → Tile)
    (hd : pairwiseDistinct v0 v1 v2 v3 = true) {i : Nat} (hi : i < 4) :
    (s.writeRows v0 v1 v2 v3 f).advance.readV (pick v0 v1 v2 v3 i) = f i :=
  (State.readV_advance _ _).trans (s.readV_writeRows v0 v1 v2 v3 f i hi hd)

/-- Settles O38: output j holds doubleword j of each row. -/
theorem tr4dTransposesDoublewords : Obligations.Tr4dTransposesDoublewords := by
  intro w v0 v1 v2 v3 s hd
  refine ⟨_, s.ifLegal_of_wf (.tr4d w v0 v1 v2 v3) _ hd, fun h i j hh hi hj => ?_, fun j hj => ?_, rfl,
    onlyV_writeRows s v0 v1 v2 v3 _ _⟩
  · rw [readV_writeRows_pick s _ hd hj, tr4dTile, dword_byHalvesD w _ h i hh hi, s.rows_eq v0 v1 v2 v3 i hi]
  · rw [readV_writeRows_pick s _ hd hj]
    exact highZero_byHalvesD w _

/-- Settles O39: output k holds column k in its low quadword and column k + 4 in its high one. -/
theorem tr8bTransposesBytes : Obligations.Tr8bTransposesBytes := by
  intro w v0 v1 v2 v3 s hd
  refine ⟨_, s.ifLegal_of_wf (.tr8b w v0 v1 v2 v3) _ hd, fun h row col hh hrow hcol => ?_, fun j hj => ?_, rfl,
    onlyV_writeRows s v0 v1 v2 v3 _ _⟩
  · have hout := byte_tr8bTile w (s.rows v0 v1 v2 v3) h (row / 4) (col / 4) (col % 4) (row % 4) hh (by omega) (by omega)
      (by omega)
    have hidx : 16 * h + 4 * (2 * (col / 4) + row / 4) + row % 4 = 16 * h + 8 * (col / 4) + row := by omega
    have hrow' : 4 * (row / 4) + row % 4 = row := Nat.div_add_mod row 4
    have hcol' : col % 4 + 4 * (col / 4) = col := Nat.mod_add_div col 4
    rw [hidx, hrow', hcol', tr8bMatrix, s.rows_eq v0 v1 v2 v3 (row / 2) (by omega)] at hout
    rw [readV_writeRows_pick s _ hd (by omega), hout]
  · rw [readV_writeRows_pick s _ hd hj]
    exact highZero_byHalves w _

/-- Every byte of TR16B's output c is byte c of the row it stands for (R105). -/
theorem byte_tr16bTile (w : Width) (r : Nat → Tile) (h c k : Nat) (hh : HasHalf w h) (hk : k < 16) :
    (tr16bTile w r c).byte (16 * h + k) = (r k).byte (16 * h + c) := by
  rw [tr16bTile, byte_byHalves w _ h k hh hk]

/-- TR16B leaves column c in V[c] (R105). -/
theorem exec_tr16b (w : Width) (s : State) :
    ∃ t, exec (.tr16b w) s = .next t ∧ (∀ c : VReg, t.readV c = tr16bTile w s.allRows c.val) ∧ t.pc = s.pc + 4 ∧
      OnlyV (List.finRange 16) s t := by
  refine ⟨_, rfl, fun c => s.readV_writeAllRows _ c, rfl, fun _ => rfl, fun q hq => absurd (List.mem_finRange q) hq,
    sameCsrs_refl s, fun _ => rfl, fun _ => rfl, ⟨rfl, rfl, rfl⟩, rfl⟩

/-- Settles O40: V[c] holds byte c of every row. -/
theorem tr16bTransposesBytes : Obligations.Tr16bTransposesBytes := by
  intro w s
  obtain ⟨t, hrun, hout, hpc, honly⟩ := exec_tr16b w s
  refine ⟨t, hrun, fun h r c hh => ?_, fun c => ?_, hpc, honly⟩
  · rw [hout, byte_tr16bTile w _ h _ _ hh r.isLt, s.allRows_eq]
  · rw [hout]
    exact highZero_byHalves w _

/-! ### Halves: VINSH and VEXTH (R108, R109) -/

/-- The tile whose half 0 is half 1 of `t` and whose half 1 is zero: what VEXTH writes. -/
def highHalf (t : Tile) : Tile := Tile.ofBytes fun i => if i < 16 then t.byte (16 + i) else 0

/-- The tile of the two half 0s, `lo`'s below `hi`'s: what VINSH writes. -/
def joinHalves (lo hi : Tile) : Tile := Tile.ofBytes fun i => if i < 16 then lo.byte i else hi.byte (i - 16)

theorem exec_vexth (v0 v1 : VReg) (s : State) :
    exec (.vexth v0 v1) s = .next (s.writeV v0 (highHalf (s.readV v1))).advance := rfl

theorem exec_vinsh (v0 v1 : VReg) (s : State) :
    exec (.vinsh v0 v1) s = .next (s.writeV v0 (joinHalves (s.readV v0) (s.readV v1))).advance := rfl

theorem byte_highHalf (t : Tile) {k : Nat} (h : k < 16) : (highHalf t).byte k = t.byte (16 + k) := by
  rw [highHalf, Tile.byte_ofBytes_of_lt _ (by omega), if_pos h]

theorem highZero_highHalf (t : Tile) : HighZero .x (highHalf t) := by
  intro _ k hk
  rw [highHalf, Tile.byte_ofBytes, if_neg (by omega : ¬ k < 16), ite_self]

theorem byte_joinHalves_low (lo hi : Tile) {k : Nat} (h : k < 16) : (joinHalves lo hi).byte k = lo.byte k := by
  rw [joinHalves, Tile.byte_ofBytes_of_lt _ (by omega), if_pos h]

theorem byte_joinHalves_high (lo hi : Tile) {k : Nat} (h : k < 16) : (joinHalves lo hi).byte (16 + k) = hi.byte k := by
  rw [joinHalves, Tile.byte_ofBytes_of_lt _ (by omega), if_neg (by omega), Nat.add_sub_cancel_left]

/-- Settles O41: each move writes the tile of the halves it names. -/
theorem tileMovesMoveHalves : Obligations.TileMovesMoveHalves := by
  refine ⟨fun w v0 v1 s => ⟨_, rfl, fun h k hh hk => ?_, ?_, rfl, onlyV_advance s v0 _⟩,
    fun v0 v1 s => ⟨_, exec_vinsh v0 v1 s, fun k hk => ?_, rfl, onlyV_advance s v0 _⟩,
    fun v0 v1 s => ⟨_, exec_vexth v0 v1 s, fun k hk => ?_, ?_, rfl, onlyV_advance s v0 _⟩⟩
  · rw [readV_writeV_advance, vmovTile, byte_byHalves w _ h k hh hk]
  · rw [readV_writeV_advance]
    exact highZero_byHalves w _
  · rw [readV_writeV_advance]
    exact ⟨byte_joinHalves_low _ _ hk, byte_joinHalves_high _ _ hk⟩
  · rw [readV_writeV_advance, byte_highHalf _ hk]
  · rw [readV_writeV_advance]
    exact highZero_highHalf _

/-! ### The transposes undo themselves (R99, R101, R105) -/

/-- In the 32-byte form no half is cleared. -/
theorem highZero_y (t : Tile) : HighZero .y t := fun h => absurd h (by decide)

theorem tr4bTile_tr4bTile (t : Tile) : tr4bTile .y (tr4bTile .y t) = t := by
  refine tile_eq_of_byte_eq (highZero_y _) (highZero_y _) fun h j b hh hj hb => ?_
  rw [byte_tr4bTile .y _ h j b hh hj hb, byte_tr4bTile .y _ h b j hh hb hj]

theorem tr4dTile_tr4dTile {r m : Nat → Tile} (hm : ∀ i, i < 4 → m i = tr4dTile .y r i) {j : Nat} (hj : j < 4) :
    tr4dTile .y m j = r j := by
  refine tile_eq_of_byte_eq (highZero_y _) (highZero_y _) fun h i b hh hi hb => ?_
  rw [byte_tr4dTile .y m h i j b hh hi hb, hm i hi, byte_tr4dTile .y r h j i b hh hj hb]

theorem tr16bTile_tr16bTile {r m : Nat → Tile} (hm : ∀ i, i < 16 → m i = tr16bTile .y r i) {c : Nat} (hc : c < 16) :
    tr16bTile .y m c = r c := by
  refine tile_eq_of_byte_eq (highZero_y _) (highZero_y _) fun h j b hh hj hb => ?_
  have hk : 4 * j + b < 16 := by omega
  rw [Nat.add_assoc, byte_tr16bTile .y m h c _ hh hk, hm _ hk, byte_tr16bTile .y r h _ c hh hc]

theorem mem_quad_iff {v0 v1 v2 v3 q : VReg} : q ∈ [v0, v1, v2, v3] ↔ ∃ i, i < 4 ∧ pick v0 v1 v2 v3 i = q := by
  constructor
  · intro h
    simp only [List.mem_cons, List.not_mem_nil, or_false] at h
    obtain rfl | rfl | rfl | rfl := h
    · exact ⟨0, by omega, rfl⟩
    · exact ⟨1, by omega, rfl⟩
    · exact ⟨2, by omega, rfl⟩
    · exact ⟨3, by omega, rfl⟩
  · rintro ⟨i, hi, rfl⟩
    obtain rfl | rfl | rfl | rfl : i = 0 ∨ i = 1 ∨ i = 2 ∨ i = 3 := by omega
    all_goals simp [pick]

/-- TR4D leaves column i in its i-th register, and no other register changes (R101). -/
theorem exec_tr4d_pick (w : Width) {v0 v1 v2 v3 : VReg} (s : State) (hd : pairwiseDistinct v0 v1 v2 v3 = true) :
    ∃ u, exec (.tr4d w v0 v1 v2 v3) s = .next u ∧
      (∀ i, i < 4 → u.readV (pick v0 v1 v2 v3 i) = tr4dTile w (s.rows v0 v1 v2 v3) i) ∧
      SameVExcept [v0, v1, v2, v3] s u :=
  ⟨_, s.ifLegal_of_wf (.tr4d w v0 v1 v2 v3) _ hd, fun _ hi => readV_writeRows_pick s _ hd hi,
    fun q hq => (State.readV_advance _ q).trans (s.readV_writeRows_other v0 v1 v2 v3 q _ hq)⟩

theorem execAll_tr4b_twice (v : VReg) (s : State) :
    ∃ t, execAll [.tr4b .y v v, .tr4b .y v v] s = .next t ∧ SameV s t := by
  refine ⟨_, (execAll_cons (exec_tr4b .y v v s) _).trans (execAll_cons (exec_tr4b .y v v _) []), fun q => ?_⟩
  rw [readV_writeV_advance, tr4bTile_tr4bTile]
  simp only [State.readV_advance, State.readV_writeV]
  by_cases h : q = v
  · rw [if_pos h, h]
  · rw [if_neg h, if_neg h]

theorem execAll_tr4d_twice {v0 v1 v2 v3 : VReg} (s : State) (hd : pairwiseDistinct v0 v1 v2 v3 = true) :
    ∃ t, execAll [.tr4d .y v0 v1 v2 v3, .tr4d .y v0 v1 v2 v3] s = .next t ∧ SameV s t := by
  obtain ⟨t, hrun1, hout1, hkept1⟩ := exec_tr4d_pick .y s hd
  obtain ⟨u, hrun2, hout2, hkept2⟩ := exec_tr4d_pick .y t hd
  refine ⟨u, (execAll_cons hrun1 _).trans (execAll_cons hrun2 []), fun q => ?_⟩
  by_cases hq : q ∈ [v0, v1, v2, v3]
  · obtain ⟨j, hj, rfl⟩ := mem_quad_iff.1 hq
    have hm : ∀ i, i < 4 → t.rows v0 v1 v2 v3 i = tr4dTile .y (s.rows v0 v1 v2 v3) i := fun i hi =>
      (t.rows_eq v0 v1 v2 v3 i hi).trans (hout1 i hi)
    rw [hout2 j hj, tr4dTile_tr4dTile hm hj, s.rows_eq v0 v1 v2 v3 j hj]
  · rw [hkept2 q hq, hkept1 q hq]

theorem execAll_tr16b_twice (s : State) : ∃ t, execAll [.tr16b .y, .tr16b .y] s = .next t ∧ SameV s t := by
  obtain ⟨t, hrun1, hout1, -⟩ := exec_tr16b .y s
  obtain ⟨u, hrun2, hout2, -⟩ := exec_tr16b .y t
  refine ⟨u, (execAll_cons hrun1 _).trans (execAll_cons hrun2 []), fun q => ?_⟩
  have hm : ∀ i, i < 16 → t.allRows i = tr16bTile .y s.allRows i := fun i hi =>
    (t.allRows_eq ⟨i, hi⟩).trans (hout1 ⟨i, hi⟩)
  rw [hout2 q, tr16bTile_tr16bTile hm q.isLt, s.allRows_eq]

/-- Settles O42: at full width each of the three tile operations is an involution. -/
theorem transposesUndoThemselves : Obligations.TransposesUndoThemselves :=
  ⟨execAll_tr4b_twice, fun _ _ _ _ s hd => execAll_tr4d_twice s hd, execAll_tr16b_twice⟩

end Sys2Proof.Machine

namespace Sys2Proof.Machine

/-! ### TR16B as a two-level block transpose (41_transpose.md R106) -/

/-- The four operands of a TR4D in row order, by their index 0..3. -/
abbrev Quad := Nat → VReg

namespace Quad

/-- The registers in row order. -/
def regs (q : Quad) : List VReg := [q 0, q 1, q 2, q 3]

/-- The rows of a TR4D over the registers. -/
def rows (q : Quad) (s : State) : Nat → Tile := s.rows (q 0) (q 1) (q 2) (q 3)

/-- TR4D over the registers. -/
def tr4d (w : Width) (q : Quad) : Instr := .tr4d w (q 0) (q 1) (q 2) (q 3)

theorem pick_eq (q : Quad) {i : Nat} (hi : i < 4) : pick (q 0) (q 1) (q 2) (q 3) i = q i := by
  obtain rfl | rfl | rfl | rfl : i = 0 ∨ i = 1 ∨ i = 2 ∨ i = 3 := by omega
  all_goals rfl

theorem mem_regs (q : Quad) {i : Nat} (hi : i < 4) : q i ∈ q.regs :=
  mem_quad_iff.2 ⟨i, hi, q.pick_eq hi⟩

theorem rows_eq (q : Quad) (s : State) {i : Nat} (hi : i < 4) : q.rows s i = s.readV (q i) := by
  rw [rows, s.rows_eq _ _ _ _ i hi, q.pick_eq hi]

/-- The rows of a TR4D are the same where its registers are. -/
theorem rows_congr {v0 v1 v2 v3 : VReg} {s t : State} (h : ∀ v ∈ [v0, v1, v2, v3], t.readV v = s.readV v) :
    t.rows v0 v1 v2 v3 = s.rows v0 v1 v2 v3 := by
  funext i
  unfold State.rows
  split
  all_goals exact h _ (by simp)

/-- TR4Ds over disjoint quads each transpose their own registers, and no other register changes. -/
theorem execAll_tr4d (w : Width) (qs : List Quad) (s : State) (hn : (qs.flatMap regs).Nodup) :
    ∃ t, execAll (qs.map (tr4d w)) s = .next t ∧
      (∀ q ∈ qs, ∀ i, i < 4 → t.readV (q i) = tr4dTile w (q.rows s) i) ∧ SameVExcept (qs.flatMap regs) s t := by
  induction qs generalizing s with
  | nil => exact ⟨s, rfl, by simp, fun _ _ => rfl⟩
  | cons q qs ih =>
    rw [List.flatMap_cons] at hn ⊢
    obtain ⟨hq, hqs, hdisjoint⟩ := List.nodup_append'.1 hn
    obtain ⟨u, hrun, hout, hkept⟩ := exec_tr4d_pick w s ((pairwiseDistinct_iff_nodup ..).2 hq)
    obtain ⟨t, hruns, houts, hkepts⟩ := ih u hqs
    refine ⟨t, (execAll_cons hrun _).trans hruns, fun p hp i hi => ?_, fun v hv => ?_⟩
    · obtain rfl | hp := List.mem_cons.1 hp
      · rw [hkepts _ (hdisjoint (p.mem_regs hi)), ← p.pick_eq hi, hout i hi, rows]
      · have hrows : p.rows u = p.rows s :=
          rows_congr fun v hv => hkept v fun h => hdisjoint h (List.mem_flatMap.2 ⟨p, hp, hv⟩)
        rw [houts p hp i hi, hrows]
    · obtain ⟨hv, hvs⟩ := not_or.1 (mt List.mem_append.2 hv)
      rw [hkepts v hvs, hkept v hv]

end Quad

/-- Tile register n, n = 0..15. -/
def vreg (n : Nat) : VReg := Fin.ofNat 16 n

theorem vreg_toNat {n : Nat} (h : n < 16) : (vreg n).val = n := Nat.mod_eq_of_lt h

theorem vreg_val (v : VReg) : vreg v.val = v := by
  simp [vreg]

/-- The registers 4j .. 4j+3. -/
def rowQuad (j : Nat) : Quad := fun i => vreg (4 * j + i)

/-- The registers k, k+4, k+8 and k+12. -/
def colQuad (k : Nat) : Quad := fun i => vreg (4 * i + k)

/-- Byte `4m + b` of a half of the i-th output of a quad is byte `4i + b` of the quad's register m (R101). -/
theorem byte_quad {w : Width} {s t : State} {q : Quad} {i : Nat} (hout : t.readV (q i) = tr4dTile w (q.rows s) i)
    {h m b : Nat} (hh : HasHalf w h) (hm : m < 4) (hb : b < 4) :
    (t.readV (q i)).byte (16 * h + 4 * m + b) = (s.readV (q m)).byte (16 * h + 4 * i + b) := by
  rw [hout, byte_tr4dTile w _ h m i b hh hm hb, q.rows_eq s hm]

/-- Settles O45: the row pass brings doubleword k of row `4m + b` to register `4m + k`, the byte pass exchanges
doubleword and byte there, and the column pass gathers the four blocks of a column. -/
theorem tr16bIsATwoLevelTranspose : Obligations.Tr16bIsATwoLevelTranspose := by
  intro w s
  obtain ⟨s1, hrun1, hout1, -⟩ := Quad.execAll_tr4d w ((List.range 4).map rowQuad) s (by decide)
  obtain ⟨s2, hrun2, hout2, -⟩ := execAll_tr4b_inPlace w (List.finRange 16) s1 (List.nodup_finRange 16)
  obtain ⟨t, hrun3, hout3, -⟩ := Quad.execAll_tr4d w ((List.range 4).map colQuad) s2 (by decide)
  obtain ⟨u, hrun, hout, -⟩ := exec_tr16b w s
  refine ⟨t, u, (execAll_append ((execAll_append hrun1 _).trans hrun2) _).trans hrun3, hrun, fun p q hpq hqp => ?_⟩
  have row : ∀ m k h j b, m < 4 → k < 4 → HasHalf w h → j < 4 → b < 4 →
      (s1.readV (vreg (4 * m + k))).byte (16 * h + 4 * j + b) =
        (s.readV (vreg (4 * m + j))).byte (16 * h + 4 * k + b) := by
    intro m k h j b hm hk hh hj hb
    exact byte_quad (hout1 _ (List.mem_map_of_mem (List.mem_range.2 hm)) k hk) hh hj hb
  have col : ∀ k j h m b, k < 4 → j < 4 → HasHalf w h → m < 4 → b < 4 →
      (t.readV (vreg (4 * j + k))).byte (16 * h + 4 * m + b) =
        (s2.readV (vreg (4 * m + k))).byte (16 * h + 4 * j + b) := by
    intro k j h m b hk hj hh hm hb
    exact byte_quad (hout3 _ (List.mem_map_of_mem (List.mem_range.2 hk)) j hj) hh hm hb
  have hp4 : p.val % 4 < 4 := Nat.mod_lt _ (by omega)
  have hp : p.val / 4 < 4 := by omega
  have hpreg : vreg (4 * (p.val / 4) + p.val % 4) = p := by rw [Nat.div_add_mod, vreg_val]
  have hhigh : HighZero w (t.readV p) := by
    have := hout3 _ (List.mem_map_of_mem (List.mem_range.2 hp4)) (p.val / 4) hp
    rw [colQuad, hpreg] at this
    exact this ▸ highZero_byHalvesD w _
  rw [hout q]
  refine tile_eq_of_byte_eq hhigh (highZero_byHalves w _) fun h m b hh hm hb => ?_
  calc (t.readV p).byte (16 * h + 4 * m + b)
      = (s2.readV (vreg (4 * m + p.val % 4))).byte (16 * h + 4 * (p.val / 4) + b) := by
        rw [← col _ _ h m b hp4 hp hh hm hb, hpreg]
    _ = (s1.readV (vreg (4 * m + p.val % 4))).byte (16 * h + 4 * b + p.val / 4) := by
        rw [hout2 _ (List.mem_finRange _), byte_tr4bTile w _ h _ b hh hp hb]
    _ = (s.readV (vreg (4 * m + b))).byte (16 * h + 4 * (p.val % 4) + p.val / 4) := row m _ h b _ hm hp4 hh hb hp
    _ = (s.allRows (4 * m + b)).byte (16 * h + q.val) := by
        rw [← s.allRows_eq, vreg_toNat (by omega), Nat.add_assoc]
        congr 2
        omega
    _ = (tr16bTile w s.allRows q.val).byte (16 * h + 4 * m + b) := by
        rw [Nat.add_assoc, byte_tr16bTile w _ h _ _ hh (by omega)]

/-! ### The tile composition law (41_transpose.md R110) -/

/-- The 32-byte form is the 16-byte form on half 0 with, above it, a 16-byte form that does there what the operation
does on half 1. -/
theorem byHalves_y_eq_joinHalves (f g : Nat → Nat → Byte) (h : ∀ k, k < 16 → g 0 k = f 1 k) :
    Tile.byHalves .y f = joinHalves (Tile.byHalves .x f) (Tile.byHalves .x g) := by
  apply Tile.ext_byte
  intro k hk
  by_cases hlow : k < 16
  · rw [Tile.byte_byHalves_low _ _ _ hlow, byte_joinHalves_low _ _ hlow, Tile.byte_byHalves_low _ _ _ hlow]
  · obtain ⟨j, rfl⟩ := Nat.exists_eq_add_of_le (Nat.not_lt.1 hlow)
    have hj : j < 16 := by omega
    rw [Tile.byte_byHalves_high _ _ hj, byte_joinHalves_high _ _ hj, Tile.byte_byHalves_low _ _ _ hj, h j hj]

/-- The same of a doubleword operation. -/
theorem byHalvesD_y_eq_joinHalves (f g : Nat → Nat → Word) (h : ∀ j, j < 4 → g 0 j = f 1 j) :
    Tile.byHalvesD .y f = joinHalves (Tile.byHalvesD .x f) (Tile.byHalvesD .x g) := by
  have bytes := fun w f h k (hh : HasHalf w h) (hk : k < 16) =>
    byte_byHalvesD w f h (k / 4) (k % 4) hh (by omega) (by omega)
  simp only [Nat.add_assoc, Nat.div_add_mod] at bytes
  apply Tile.ext_byte
  intro k hk
  by_cases hlow : k < 16
  · have low := fun w f => bytes w f 0 k (.inl rfl) hlow
    simp only [Nat.mul_zero, Nat.zero_add] at low
    rw [low, byte_joinHalves_low _ _ hlow, low]
  · obtain ⟨j, rfl⟩ := Nat.exists_eq_add_of_le (Nat.not_lt.1 hlow)
    have hj : j < 16 := by omega
    have low := bytes .x g 0 j (.inl rfl) hj
    simp only [Nat.mul_zero, Nat.zero_add] at low
    rw [byte_joinHalves_high _ _ hj, low, h _ (by omega)]
    exact bytes .y f 1 j (.inr ⟨rfl, rfl⟩) hj

theorem dword_highHalf (t : Tile) {j : Nat} (h : j < 4) : (highHalf t).dword j = t.dword (4 + j) := by
  have e : ∀ b, b < 4 → (highHalf t).byte (4 * j + b) = t.byte (4 * (4 + j) + b) := by
    intro b hb
    rw [byte_highHalf t (by omega)]
    congr 1
    omega
  have e0 := e 0 (by omega)
  simp only [Nat.add_zero] at e0
  rw [Tile.dword, e0, e 1 (by omega), e 2 (by omega), e 3 (by omega), Tile.dword]

theorem permP_lt {k : Nat} (h : k < 16) : permP k < 16 := by
  revert k
  decide

theorem tr4bTile_wide (t : Tile) : tr4bTile .y t = joinHalves (tr4bTile .x t) (tr4bTile .x (highHalf t)) := by
  refine byHalves_y_eq_joinHalves _ _ fun k hk => ?_
  rw [Nat.mul_zero, Nat.zero_add, byte_highHalf t (permP_lt hk)]

theorem vmovTile_wide (t : Tile) : vmovTile .y t = joinHalves (vmovTile .x t) (vmovTile .x (highHalf t)) := by
  refine byHalves_y_eq_joinHalves _ _ fun k hk => ?_
  rw [Nat.mul_zero, Nat.zero_add, byte_highHalf t hk]

theorem shufdTile_wide (t1 t2 : Tile) (imm8 : BitVec 8) :
    shufdTile .y t1 t2 imm8 = joinHalves (shufdTile .x t1 t2 imm8) (shufdTile .x (highHalf t1) (highHalf t2) imm8) := by
  refine byHalvesD_y_eq_joinHalves _ _ fun j hj => ?_
  have hsel := selector_lt imm8 j
  rw [Nat.mul_zero, Nat.zero_add]
  split
  · exact dword_highHalf t1 hsel
  · exact dword_highHalf t2 hsel

theorem tr4dTile_wide {r m : Nat → Tile} (hm : ∀ i, i < 4 → m i = highHalf (r i)) {j : Nat} (hj : j < 4) :
    tr4dTile .y r j = joinHalves (tr4dTile .x r j) (tr4dTile .x m j) := by
  refine byHalvesD_y_eq_joinHalves _ _ fun i hi => ?_
  rw [Nat.mul_zero, Nat.zero_add, hm i hi, dword_highHalf _ hj]

theorem tr8bMatrix_highHalf {r m : Nat → Tile} (hm : ∀ i, i < 4 → m i = highHalf (r i)) {row col : Nat}
    (hrow : row < 8) (hcol : col < 8) : tr8bMatrix m 0 row col = tr8bMatrix r 1 row col := by
  rw [tr8bMatrix, tr8bMatrix, hm _ (by omega), byte_highHalf _ (by omega)]
  congr 1
  omega

theorem tr8bTile_wide {r m : Nat → Tile} (hm : ∀ i, i < 4 → m i = highHalf (r i)) {j : Nat} (hj : j < 4) :
    tr8bTile .y r j = joinHalves (tr8bTile .x r j) (tr8bTile .x m j) := by
  refine byHalves_y_eq_joinHalves _ _ fun b hb => ?_
  split
  · exact tr8bMatrix_highHalf hm (by omega) (by omega)
  · exact tr8bMatrix_highHalf hm (by omega) (by omega)

/-- Moving the half 1 of four registers down into four others. -/
theorem execAll_vexth4 {x0 x1 x2 x3 v0 v1 v2 v3 : VReg} (s : State)
    (hn : [v0, v1, v2, v3, x0, x1, x2, x3].Nodup) :
    ∃ t, execAll [.vexth x0 v0, .vexth x1 v1, .vexth x2 v2, .vexth x3 v3] s = .next t ∧
      (∀ i, i < 4 → t.readV (pick x0 x1 x2 x3 i) = highHalf (s.readV (pick v0 v1 v2 v3 i))) ∧
      SameVExcept [x0, x1, x2, x3] s t := by
  simp only [List.nodup_cons, List.mem_cons, List.not_mem_nil, or_false, not_or] at hn
  refine ⟨_, execAll_cons (exec_vexth x0 v0 s) _ |>.trans <| execAll_cons (exec_vexth x1 v1 _) _ |>.trans <|
    execAll_cons (exec_vexth x2 v2 _) _ |>.trans <| execAll_cons (exec_vexth x3 v3 _) [],
    fun i hi => ?_, fun q hq => ?_⟩
  · obtain rfl | rfl | rfl | rfl : i = 0 ∨ i = 1 ∨ i = 2 ∨ i = 3 := by omega
    all_goals simp [pick, State.readV_writeV, hn]
  · simp only [List.mem_cons, List.not_mem_nil, or_false, not_or] at hq
    simp [State.readV_writeV, hq]

/-- Moving the half 0 of four registers up into the half 1 of four others. -/
theorem execAll_vinsh4 {x0 x1 x2 x3 v0 v1 v2 v3 : VReg} (s : State)
    (hn : [v0, v1, v2, v3, x0, x1, x2, x3].Nodup) :
    ∃ t, execAll [.vinsh v0 x0, .vinsh v1 x1, .vinsh v2 x2, .vinsh v3 x3] s = .next t ∧
      ∀ i, i < 4 → t.readV (pick v0 v1 v2 v3 i) =
        joinHalves (s.readV (pick v0 v1 v2 v3 i)) (s.readV (pick x0 x1 x2 x3 i)) := by
  have hsymm : [x3, x2, x1, x0, v3, v2, v1, v0].Nodup := List.nodup_reverse.2 hn
  simp only [List.nodup_cons, List.mem_cons, List.not_mem_nil, or_false, not_or] at hn hsymm
  refine ⟨_, execAll_cons (exec_vinsh v0 x0 s) _ |>.trans <| execAll_cons (exec_vinsh v1 x1 _) _ |>.trans <|
    execAll_cons (exec_vinsh v2 x2 _) _ |>.trans <| execAll_cons (exec_vinsh v3 x3 _) [], fun i hi => ?_⟩
  obtain rfl | rfl | rfl | rfl : i = 0 ∨ i = 1 ∨ i = 2 ∨ i = 3 := by omega
  all_goals simp [pick, State.readV_writeV, hn, hsymm]

/-- TR8B leaves output i in its i-th register, and no other register changes (R103). -/
theorem exec_tr8b_pick (w : Width) {v0 v1 v2 v3 : VReg} (s : State) (hd : pairwiseDistinct v0 v1 v2 v3 = true) :
    ∃ u, exec (.tr8b w v0 v1 v2 v3) s = .next u ∧
      (∀ i, i < 4 → u.readV (pick v0 v1 v2 v3 i) = tr8bTile w (s.rows v0 v1 v2 v3) i) ∧
      SameVExcept [v0, v1, v2, v3] s u :=
  ⟨_, s.ifLegal_of_wf (.tr8b w v0 v1 v2 v3) _ hd, fun _ hi => readV_writeRows_pick s _ hd hi,
    fun q hq => (State.readV_advance _ q).trans (s.readV_writeRows_other v0 v1 v2 v3 q _ hq)⟩

/-- A primitive over four rows has the composition law where its tiles have it: the 32-byte form leaves in each register
what the 16-byte form, the 16-byte form on the halves moved down, and the move back up leave there (R110). -/
theorem wide_of_rows {op : Width → VReg → VReg → VReg → VReg → Instr} {out : Width → (Nat → Tile) → Nat → Tile}
    (hop : ∀ w {v0 v1 v2 v3 : VReg} (s : State), pairwiseDistinct v0 v1 v2 v3 = true →
      ∃ u, exec (op w v0 v1 v2 v3) s = .next u ∧
        (∀ i, i < 4 → u.readV (pick v0 v1 v2 v3 i) = out w (s.rows v0 v1 v2 v3) i) ∧ SameVExcept [v0, v1, v2, v3] s u)
    (hout : ∀ {r m : Nat → Tile}, (∀ i, i < 4 → m i = highHalf (r i)) → ∀ {j}, j < 4 →
      out .y r j = joinHalves (out .x r j) (out .x m j))
    {v0 v1 v2 v3 x0 x1 x2 x3 : VReg} (s : State) (hn : [v0, v1, v2, v3, x0, x1, x2, x3].Nodup) :
    ∃ t u, execAll [.vexth x0 v0, .vexth x1 v1, .vexth x2 v2, .vexth x3 v3, op .x v0 v1 v2 v3, op .x x0 x1 x2 x3,
        .vinsh v0 x0, .vinsh v1 x1, .vinsh v2 x2, .vinsh v3 x3] s = .next t ∧
      exec (op .y v0 v1 v2 v3) s = .next u ∧
      t.readV v0 = u.readV v0 ∧ t.readV v1 = u.readV v1 ∧ t.readV v2 = u.readV v2 ∧ t.readV v3 = u.readV v3 := by
  obtain ⟨hv, hx, hdisjoint⟩ := (List.nodup_append' (l₁ := [v0, v1, v2, v3]) (l₂ := [x0, x1, x2, x3])).1 hn
  have hdv := (pairwiseDistinct_iff_nodup v0 v1 v2 v3).2 hv
  have hdx := (pairwiseDistinct_iff_nodup x0 x1 x2 x3).2 hx
  obtain ⟨s1, hrun1, hdown, hkept1⟩ := execAll_vexth4 s hn
  obtain ⟨s2, hrun2, hout2, hkept2⟩ := hop .x s1 hdv
  obtain ⟨s3, hrun3, hout3, hkept3⟩ := hop .x s2 hdx
  obtain ⟨t, hrun4, hup⟩ := execAll_vinsh4 s3 hn
  obtain ⟨u, hrun, hwide, -⟩ := hop .y s hdv
  have hrows1 : s1.rows v0 v1 v2 v3 = s.rows v0 v1 v2 v3 :=
    Quad.rows_congr fun v hv => hkept1 v fun hx => hdisjoint hv hx
  have hrows2 : ∀ i, i < 4 → s2.rows x0 x1 x2 x3 i = highHalf (s.rows v0 v1 v2 v3 i) := by
    intro i hi
    have hmem : pick x0 x1 x2 x3 i ∈ [x0, x1, x2, x3] := mem_quad_iff.2 ⟨i, hi, rfl⟩
    rw [s2.rows_eq _ _ _ _ i hi, hkept2 _ fun hv => hdisjoint hv hmem, hdown i hi, s.rows_eq _ _ _ _ i hi]
  have same : ∀ i, i < 4 → t.readV (pick v0 v1 v2 v3 i) = u.readV (pick v0 v1 v2 v3 i) := by
    intro i hi
    have hmem : pick v0 v1 v2 v3 i ∈ [v0, v1, v2, v3] := mem_quad_iff.2 ⟨i, hi, rfl⟩
    rw [hup i hi, hkept3 _ fun hx => hdisjoint hmem hx, hout2 i hi, hrows1, hout3 i hi, hwide i hi, hout hrows2 hi]
  exact ⟨t, u, (execAll_append hrun1 _).trans <| (execAll_cons hrun2 _).trans <| (execAll_cons hrun3 _).trans hrun4,
    hrun, same 0 (by omega), same 1 (by omega), same 2 (by omega), same 3 (by omega)⟩

/-- A primitive over one row has the composition law where its tile has it (R110). -/
theorem wide_of_tile {op : Width → VReg → VReg → Instr} {out : Width → Tile → Tile}
    (hop : ∀ w v0 v1 s, exec (op w v0 v1) s = .next (s.writeV v0 (out w (s.readV v1))).advance)
    (hout : ∀ t, out .y t = joinHalves (out .x t) (out .x (highHalf t))) {v0 v1 x : VReg} (s : State) (h0 : x ≠ v0)
    (h1 : x ≠ v1) :
    ∃ t u, execAll [.vexth x v1, op .x x x, op .x v0 v1, .vinsh v0 x] s = .next t ∧
      exec (op .y v0 v1) s = .next u ∧ t.readV v0 = u.readV v0 := by
  refine ⟨_, _, execAll_cons (exec_vexth x v1 s) _ |>.trans <| execAll_cons (hop .x x x _) _ |>.trans <|
    execAll_cons (hop .x v0 v1 _) _ |>.trans <| execAll_cons (exec_vinsh v0 x _) [], hop .y v0 v1 s, ?_⟩
  simp [State.readV_writeV, h0, h1.symm, hout]

/-- Settles O46: half 1 of a 32-byte form is the 16-byte form on the halves moved down. -/
theorem wideFormIsTwoNarrowForms : Obligations.WideFormIsTwoNarrowForms := by
  refine ⟨fun v0 v1 x s h0 h1 => ⟨?_, ?_⟩, fun v0 v1 v2 x y imm8 s hx0 hx1 hx2 hy0 hy1 hy2 hxy => ?_,
    fun v0 v1 v2 v3 x0 x1 x2 x3 s hn => ⟨?_, ?_⟩, fun s d hd => ?_⟩
  · exact wide_of_tile (fun _ _ _ _ => rfl) tr4bTile_wide s h0 h1
  · exact wide_of_tile (fun _ _ _ _ => rfl) vmovTile_wide s h0 h1
  · have hshufd : ∀ w v0 v1 v2 (s : State), exec (.shufd w v0 v1 v2 imm8) s =
        .next (s.writeV v0 (shufdTile w (s.readV v1) (s.readV v2) imm8)).advance := fun _ _ _ _ _ => rfl
    refine ⟨_, _, execAll_cons (exec_vexth x v1 s) _ |>.trans <| execAll_cons (exec_vexth y v2 _) _ |>.trans <|
      execAll_cons (hshufd .x x x y _) _ |>.trans <| execAll_cons (hshufd .x v0 v1 v2 _) _ |>.trans <|
      execAll_cons (exec_vinsh v0 x _) [], hshufd .y v0 v1 v2 s, ?_⟩
    simp [State.readV_writeV, hx0, hxy, hx1.symm, hx2.symm, hy1.symm, hy2.symm, shufdTile_wide]
  · exact wide_of_rows exec_tr4d_pick tr4dTile_wide s hn
  · exact wide_of_rows exec_tr8b_pick tr8bTile_wide s hn
  · obtain ⟨t, hrunt, ht, -⟩ := exec_tr16b .x s
    obtain ⟨b, hrunb, hb, -⟩ := exec_tr16b .x d
    obtain ⟨u, hrunu, hu, -⟩ := exec_tr16b .y s
    refine ⟨t, b, u, hrunt, hrunb, hrunu, fun r k hk => ⟨?_, ?_⟩⟩
    · rw [hu, ht, tr16bTile, tr16bTile, Tile.byte_byHalves_low _ _ _ hk, Tile.byte_byHalves_low _ _ _ hk]
    · have hrow := hd ⟨k, hk⟩ r.val r.isLt
      rw [← s.allRows_eq, ← d.allRows_eq] at hrow
      rw [hu, hb, tr16bTile, tr16bTile, Tile.byte_byHalves_high _ _ hk, Tile.byte_byHalves_low _ _ _ hk, Nat.mul_zero,
        Nat.zero_add]
      exact hrow.symm

end Sys2Proof.Machine

namespace Sys2Proof.Machine

/-! ### DMX: its checks, and the state it leaves (40_demux.md R88 to R91) -/

/-- A DMX whose check fails raises that check's fault. -/
theorem raises_dmx {w : Width} {mode : DmxMode} {s : State} {trap : Trap} (hwf : WellFormed (.dmx w mode) = true)
    (h : s.dmxTrap w mode = some trap) : Raises (.dmx w mode) trap s := by
  apply raises_of_exec
  rw [exec, execDmx, s.ifLegal_of_wf _ _ hwf, h]

/-- A DMX whose checks all pass completes (R90). -/
theorem exec_dmx_of_ready {w : Width} {mode : DmxMode} {s : State} (hwf : WellFormed (.dmx w mode) = true)
    (h : DmxReady w mode s) : exec (.dmx w mode) s = .next (s.dmxDone mode) := by
  rw [exec, execDmx, s.ifLegal_of_wf _ _ hwf, (s.dmxTrap_none_iff w mode).2 h]

/-- The byte of channel c at a clear address of its buffer is the source byte of its row (R90). -/
theorem dmxDone_byteAt_clear {mode : DmxMode} {s : State} {c x : Nat} (hc : c < s.nts.toNat)
    (hx : InDest s (expectedRows s mode) c x) (hclear : Clear s (expectedRows s mode) c x) :
    (s.dmxDone mode).byteAt x = s.byteAt (s.src.toNat + ((x - destAddr s c) * s.nts.toNat + c)) := by
  have hlen : c < s.dmxTable.length := by rwa [State.dmxTable_length]
  have hentry : s.dmxTable[c].addr.toNat = destAddr s c := by rw [State.dmxTable_getElem, destAddr]
  have hno := (s.dmxOverlap_false_iff _ c x).2 hclear
  obtain ⟨-, -, hother⟩ := hclear
  have halone : ∀ d, (h : d < s.dmxTable.length) → d ≠ c →
      ¬ (s.dmxTable[d].addr.toNat ≤ x ∧ x < s.dmxTable[d].addr.toNat + expectedRows s mode) := by
    intro d hd hdc
    rw [State.dmxTable_getElem]
    exact hother d (by rwa [State.dmxTable_length] at hd) hdc
  rw [State.dmxDone_byteAt, State.dmxRows_eq,
    s.dmxWrite_byteAt_inside _ 0 c _ s x hlen (by rw [hentry]; exact hx) halone, hentry, Nat.zero_add, State.dmxByte,
    Nat.add_sub_cancel' hx.1, hno]
  rfl

/-- An address in no destination buffer keeps its byte (R91). -/
theorem dmxDone_byteAt_outside {mode : DmxMode} {s : State} {x : Nat}
    (hx : ∀ c, c < s.nts.toNat → ¬ InDest s (expectedRows s mode) c x) : (s.dmxDone mode).byteAt x = s.byteAt x := by
  rw [State.dmxDone_byteAt, State.dmxRows_eq]
  exact s.dmxWrite_byteAt_outside _ _ _ s x ((s.forall_dmxTable _).2 hx)

/-- DMX done leaves every register and every CSR but PC as it was (R91). -/
theorem dmxDone_keeps (s : State) (mode : DmxMode) :
    (s.dmxDone mode).pc = s.pc + 4 ∧ SameA s (s.dmxDone mode) ∧ SameV s (s.dmxDone mode) ∧
      SameCsrs s (s.dmxDone mode) ∧ SameImem s (s.dmxDone mode) ∧ SameModel s (s.dmxDone mode) := by
  obtain ⟨hrun, hcontrol, hconfig, himem, ⟨hturns, hport, hfill⟩, ha, hv, hpc⟩ := s.dmxDone_frame mode
  exact ⟨hpc, State.readA_congr ha, State.readV_congr hv, ⟨hrun, hcontrol, hconfig⟩, State.imemWord_congr himem hfill,
    hturns, hport, hfill⟩

/-- Settles O48: a clear byte is written by its own channel alone, and no other write reaches outside the buffers. -/
theorem dmxOverlapLeavesClearBytesRight : Obligations.DmxOverlapLeavesClearBytesRight := by
  intro w mode s hwf h
  exact ⟨_, exec_dmx_of_ready hwf h, fun c x hc hx hclear => dmxDone_byteAt_clear hc hx hclear,
    fun x hx => dmxDone_byteAt_outside hx, dmxDone_keeps s mode⟩

/-- Settles O47: where the buffers are disjoint every written byte is clear. -/
theorem dmxDemultiplexes : Obligations.DmxDemultiplexes := by
  intro w mode s hwf h hdisjoint
  refine ⟨_, exec_dmx_of_ready hwf h, fun c r hc hr => ?_, fun x hx => dmxDone_byteAt_outside hx, dmxDone_keeps s mode⟩
  have hx : InDest s (expectedRows s mode) c (destAddr s c + r) := ⟨by omega, by omega⟩
  rw [dmxDone_byteAt_clear hc hx (hdisjoint c _ hc hx), Nat.add_sub_cancel_left]

theorem dmxShapeWrong_iff (s : State) (mode : DmxMode) : s.dmxShapeWrong mode = true ↔ ¬ ShapeFits mode s := by
  rw [← s.dmxShapeWrong_false_iff, Bool.not_eq_false]

theorem rowsWrong_iff (s : State) (mode : DmxMode) : mode.rowsWrong s.nts.toNat = true ↔ ¬ RowCountFits mode s := by
  rw [← DmxMode.rowsWrong_false_iff, Bool.not_eq_false]

theorem tileWrong_iff (w : Width) (mode : DmxMode) (n : Nat) : mode.tileWrong w n = true ↔ ¬ TileFits w mode n := by
  rw [← DmxMode.tileWrong_false_iff, Bool.not_eq_false]

/-- Settles O49: each clause is one link of the chain of checks, with the checks before it passed. -/
theorem dmxShapeChecksFaultInOrder : Obligations.DmxShapeChecksFaultInOrder := by
  intro w mode s hwf
  have raises : ∀ trap, s.dmxShapeTrap w mode = some trap → Raises (.dmx w mode) trap s := by
    intro trap h
    apply raises_dmx hwf
    rw [State.dmxTrap, h]
    rfl
  unfold State.dmxShapeTrap at raises
  refine ⟨fun h => raises _ (if_pos (s.nts_eq_zero_iff.2 h)), fun hnts => ?_⟩
  rw [if_neg (mt s.nts_eq_zero_iff.1 hnts)] at raises
  refine ⟨fun h => raises _ (if_pos ((dmxShapeWrong_iff s mode).2 h)), fun hshape => ?_⟩
  rw [if_neg (mt (dmxShapeWrong_iff s mode).1 (not_not.2 hshape))] at raises
  refine ⟨fun h => raises _ (if_pos ((rowsWrong_iff s mode).2 h)), fun hrows => ?_⟩
  rw [if_neg (mt (rowsWrong_iff s mode).1 (not_not.2 hrows))] at raises
  refine ⟨fun h => raises _ (if_pos ((tileWrong_iff w mode _).2 h)), fun htile => ?_⟩
  rw [if_neg (mt (tileWrong_iff w mode _).1 (not_not.2 htile))] at raises
  refine ⟨fun h => raises _ (if_pos h), fun hcount => ?_⟩
  rw [if_neg (not_not.2 hcount)] at raises
  refine ⟨fun h => raises _ (if_pos h), fun halign h => ?_⟩
  rw [if_neg (not_not.2 halign)] at raises
  exact raises _ (if_pos h)

/-- The first channel whose entry fails a check is the one the check finds. -/
theorem find?_dmxTable {s : State} {p : DestEntry → Bool} {c : Nat} (hc : c < s.nts.toNat)
    (hbad : p (s.tableEntry s.dtab.toNat c) = true) (hfirst : ∀ d, d < c → p (s.tableEntry s.dtab.toNat d) = false) :
    s.dmxTable.find? p = some (s.tableEntry s.dtab.toNat c) := by
  have hlen : c < s.dmxTable.length := by rwa [State.dmxTable_length]
  rw [List.find?_eq_some_iff_getElem]
  refine ⟨hbad, c, hlen, s.dmxTable_getElem c hlen, fun d hd => ?_⟩
  rw [State.dmxTable_getElem, hfirst d hd]
  rfl

/-- With the CSR checks passed the table's checks decide, the lengths first (R88 checks 9 to 12). -/
theorem dmxTrap_of_shapeOk {w : Width} {mode : DmxMode} {s : State} (h : DmxShapeOk w mode s) :
    s.dmxTrap w mode = (lengthTrap (expectedRows s mode) 0 s.dmxTable <|> s.alignTrap w mode s.dmxTable <|>
      s.rangeTrap (expectedRows s mode) s.dmxTable) := by
  rw [State.dmxTrap, (s.dmxShapeTrap_none_iff w mode).2 h, s.dmxRows_eq mode]
  rfl

/-- Settles O50: each check is made once those before it have passed, and reports the first channel that fails it. -/
theorem dmxTableChecksFaultInOrder : Obligations.DmxTableChecksFaultInOrder := by
  intro w mode s hwf hshape
  have raises : ∀ trap, s.dmxTrap w mode = some trap → Raises (.dmx w mode) trap s := fun _ => raises_dmx hwf
  rw [dmxTrap_of_shapeOk hshape] at raises
  refine ⟨fun c hc hbad hfirst => raises _ ?_, fun hlen => ?_⟩
  · have hlength := lengthTrap_first (expectedRows s mode) 0 c s.dmxTable (by rwa [State.dmxTable_length])
      (by rw [State.dmxTable_getElem]; exact hbad)
      fun d hd => by rw [State.dmxTable_getElem]; exact hfirst d hd
    rw [hlength, Nat.zero_add]
    rfl
  rw [(lengthTrap_none_iff _ 0 _).2 ((s.forall_dmxTable _).2 hlen)] at raises
  refine ⟨fun hsrc => raises _ ?_, fun hsrc c hc hbad hfirst => raises _ ?_, fun hbases => ?_⟩
  · rw [State.alignTrap, if_pos ((tileWrong_iff w mode _).2 hsrc)]
    rfl
  · rw [State.alignTrap, (DmxMode.tileWrong_false_iff w mode _).2 hsrc, if_neg Bool.false_ne_true,
      find?_dmxTable hc ((tileWrong_iff w mode _).2 hbad) fun d hd =>
        (DmxMode.tileWrong_false_iff w mode _).2 (hfirst d hd)]
    rfl
  obtain ⟨hsrc, hdest⟩ := hbases
  rw [(s.alignTrap_none_iff w mode _).2 ⟨hsrc, (s.forall_dmxTable _).2 hdest⟩] at raises
  refine ⟨fun hrange => raises _ ?_, fun hrange c hc hbad hfirst => raises _ ?_⟩
  · rw [State.rangeTrap, if_pos (by simpa [SourceInRange] using hrange)]
    rfl
  · have hentry : ∀ d, (decide (0 < expectedRows s mode) && decide ((s.tableEntry s.dtab.toNat d).addr.toNat +
        expectedRows s mode > s.params.dmemBytes)) = true ↔ ¬ DestInRange mode s d := by
      intro d
      simp [DestInRange, destAddr]
    rw [State.rangeTrap, if_neg (by simpa [SourceInRange] using hrange),
      find?_dmxTable hc ((hentry c).2 hbad) fun d hd =>
        Bool.eq_false_of_not_eq_true (mt (hentry d).1 (not_not.2 (hfirst d hd)))]
    rfl

/-! ### DMX: the modes (R95, R96) -/

/-- Where a mode's shape precondition holds, REF's does, with the same ROWS (R86, R87). -/
theorem shape_ref {w : Width} {mode : DmxMode} {s : State} (h : DmxShapeOk w mode s) :
    ShapeFits .ref s ∧ expectedRows s .ref = expectedRows s mode := by
  obtain ⟨hnts, ⟨href, hother⟩, -⟩ := h
  by_cases hm : mode = .ref
  · subst hm
    exact ⟨⟨href, hother⟩, rfl⟩
  · have hslen := hother hm
    refine ⟨⟨fun _ => ?_, fun h => absurd rfl h⟩, ?_⟩
    · rw [hslen, Nat.mul_mod_right]
    · rw [expectedRows, if_pos rfl, expectedRows, if_neg hm, hslen, Nat.mul_div_cancel_left _ (by omega)]

/-- REF is no tile mode: it asks nothing of rows and bases (R86). -/
theorem tileFits_ref (w : Width) (n : Nat) : TileFits w .ref n := by
  rintro (h | h | h) <;> cases h

/-- REF's checks pass where another mode's do (R95). -/
theorem dmxReady_ref {w : Width} {mode : DmxMode} {s : State} (h : DmxReady w mode s) : DmxReady .x .ref s := by
  obtain ⟨hshape, hlen, -, hsrc, hdest⟩ := h
  obtain ⟨hfits, hrows⟩ := shape_ref hshape
  obtain ⟨hnts, -, -, -, hcount, halign, hrange⟩ := hshape
  refine ⟨⟨hnts, hfits, ⟨nofun, nofun, nofun⟩, tileFits_ref .x _, hcount, halign,
    hrange⟩, fun c hc => (hlen c hc).trans hrows.symm, ⟨tileFits_ref .x _, fun c _ => tileFits_ref .x _⟩, hsrc,
    fun c hc => ?_⟩
  rw [DestInRange, hrows]
  exact hdest c hc

/-- Settles O51: the result of DMX depends on the mode by ROWS alone. -/
theorem dmxModesAgree : Obligations.DmxModesAgree := by
  intro w mode s hwf h
  have href := dmxReady_ref h
  have hrows := (shape_ref h.1).2
  refine ⟨href, ?_⟩
  rw [exec_dmx_of_ready hwf h, exec_dmx_of_ready rfl href, State.dmxDone, State.dmxDone, s.dmxRows_eq, s.dmxRows_eq,
    hrows]

/-! ### DCMP (43_oracle.md R117, R118) -/

theorem raises_dcmp {ra : AReg} {s : State} {trap : Trap} (h : s.dcmpTrap = some trap) : Raises (.dcmp ra) trap s := by
  apply raises_of_exec
  rw [exec, execDcmp, h]

/-- With the table checks passed the scan decides (R117). -/
theorem exec_dcmp_of_tablesOk {s : State} (ra : AReg) (h : DcmpTablesOk s) :
    exec (.dcmp ra) s = s.orRaise (s.dcmpScan 0 s.dcnt.toNat) fun verdict => (s.writeA ra verdict).advance := by
  rw [exec, execDcmp, s.dcmpTrap_none_iff.2 h]

/-- Behind equal channels the scan is at channel c, with channels left (R117). -/
theorem dcmpScan_reaches {s : State} {c : Nat} (hc : c < s.dcnt.toNat) (h : ∀ d, d < c → CmpEqual s d) :
    ∃ k, s.dcmpScan 0 s.dcnt.toNat = s.dcmpScan c (k + 1) := by
  obtain ⟨k, hk⟩ := Nat.exists_eq_add_of_lt hc
  refine ⟨k, ?_⟩
  have := s.dcmpScan_skip 0 (k + 1) c fun d _ hd => h d (by omega)
  rwa [Nat.zero_add, ← Nat.add_assoc, ← hk] at this

/-- Where every channel is equal the verdict is 0xFFFF_FFFF (R117). -/
theorem dcmpScan_all_equal {s : State} (h : ∀ c, c < s.dcnt.toNat → CmpEqual s c) :
    s.dcmpScan 0 s.dcnt.toNat = .ok 0xFFFFFFFF :=
  s.dcmpScan_skip 0 0 s.dcnt.toNat fun d _ hd => h d (by omega)

/-- Settles O52: the scan passes over equal channels and stops at the first that differs. -/
theorem dcmpReportsTheFirstDifference : Obligations.DcmpReportsTheFirstDifference := by
  intro ra s htables
  refine ⟨fun c hc hequal hdiffers => ?_, fun hequal => ?_⟩
  · have hlt := s.dcnt.isLt
    obtain ⟨k, hscan⟩ := dcmpScan_reaches hc hequal
    refine ⟨_, BitVec.ofNat 32 c, ?_, ?_, wroteA_advance s ra _, rfl⟩
    · rw [exec_dcmp_of_tablesOk ra htables, hscan, s.dcmpScan_differs c k hdiffers, State.orRaise_ok]
    · rw [BitVec.toNat_ofNat, Nat.mod_eq_of_lt (by omega)]
  · refine ⟨_, ?_, wroteA_advance s ra _, rfl⟩
    rw [exec_dcmp_of_tablesOk ra htables, dcmpScan_all_equal hequal, State.orRaise_ok]

/-- The scan raises what the channel it is at raises (R117). -/
theorem raises_dcmp_of_channel {ra : AReg} {s : State} {c : Nat} {trap : Trap} (htables : DcmpTablesOk s)
    (hc : c < s.dcnt.toNat) (hequal : ∀ d, d < c → CmpEqual s d) (h : s.dcmpChannel c = .error trap) :
    Raises (.dcmp ra) trap s := by
  obtain ⟨k, hscan⟩ := dcmpScan_reaches hc hequal
  apply raises_of_exec
  rw [exec_dcmp_of_tablesOk ra htables, hscan, State.dcmpScan, h]
  rfl

/-- Settles O53: the table checks are a chain, and a channel of equal lengths checks its two ranges in order. -/
theorem dcmpFaultsInOrder : Obligations.DcmpFaultsInOrder := by
  intro ra s
  have raises : ∀ trap, s.dcmpTrap = some trap → Raises (.dcmp ra) trap s := fun _ => raises_dcmp
  unfold State.dcmpTrap at raises
  refine ⟨fun h => raises _ (if_pos h), fun h1 h => ?_, fun h1 h2 => ⟨fun h => ?_, fun h3 h => ?_⟩,
    fun htables c hc hequal hlen hpos => ?_⟩
  · rw [if_neg (not_not.2 h1), if_pos h] at raises
    exact raises _ rfl
  · rw [if_neg (not_not.2 h1), if_neg (not_not.2 h2), if_pos h] at raises
    exact raises _ rfl
  · rw [if_neg (not_not.2 h1), if_neg (not_not.2 h2), if_neg (Nat.not_lt.2 h3), if_pos h] at raises
    exact raises _ rfl
  · have hsame : (s.tableEntry s.dtab.toNat c).len = (s.tableEntry s.dtab2.toNat c).len := BitVec.eq_of_toNat_eq hlen
    refine ⟨fun h => ?_, fun h1 h => ?_⟩ <;> apply raises_dcmp_of_channel htables hc hequal <;>
      rw [State.dcmpChannel, if_neg (not_not.2 hsame)]
    · exact if_pos ⟨hpos, h⟩
    · exact (if_neg fun h' => Nat.not_lt.2 h1 h'.2).trans (if_pos ⟨hpos, h⟩)

/-- Writing a scalar register and the pc does not change what DCMP reads (R118). -/
theorem dcmpScan_writeA_advance (s : State) (ra : AReg) (x : Word) (c k : Nat) :
    (s.writeA ra x).advance.dcmpScan c k = s.dcmpScan c k := by
  induction k generalizing c with
  | zero => rfl
  | succ k ih =>
    have hchannel : (s.writeA ra x).advance.dcmpChannel c = s.dcmpChannel c := rfl
    simp only [State.dcmpScan, hchannel, ih]

/-- A DCMP that goes on in sequence has passed its checks and writes its verdict. -/
theorem dcmp_verdict {ra : AReg} {s t : State} (h : exec (.dcmp ra) s = .next t) (hpc : t.pc = s.pc + 4) :
    DcmpTablesOk s ∧ ∃ x, s.dcmpScan 0 s.dcnt.toNat = .ok x ∧ t = (s.writeA ra x).advance := by
  have no_fault : ∀ trap, t ≠ s.raise trap := by
    rintro trap rfl
    rw [State.raise_pc] at hpc
    bv_omega
  cases htrap : s.dcmpTrap with
  | some trap =>
    rw [exec, execDcmp, htrap] at h
    exact absurd (Host.Outcome.next.inj h).symm (no_fault trap)
  | none =>
    have htables := s.dcmpTrap_none_iff.1 htrap
    rw [exec_dcmp_of_tablesOk ra htables] at h
    cases hscan : s.dcmpScan 0 s.dcnt.toNat with
    | ok x =>
      rw [hscan] at h
      exact ⟨htables, x, rfl, (Host.Outcome.next.inj h).symm⟩
    | error trap =>
      rw [hscan] at h
      exact absurd (Host.Outcome.next.inj h).symm (no_fault trap)

/-- Settles O54: the first DCMP changes nothing that the second reads. -/
theorem dcmpTwiceGivesTheSameVerdict : Obligations.DcmpTwiceGivesTheSameVerdict := by
  intro ra rb s t h hpc
  obtain ⟨htables, x, hscan, rfl⟩ := dcmp_verdict h hpc
  have hagain : exec (.dcmp rb) (s.writeA ra x).advance = .next ((s.writeA ra x).advance.writeA rb x).advance := by
    rw [exec_dcmp_of_tablesOk rb (s := (s.writeA ra x).advance) htables, dcmpScan_writeA_advance]
    exact congrArg (fun r => State.orRaise _ r _) hscan
  refine ⟨_, hagain, rfl, fun ha hb => ?_⟩
  rw [State.readA_advance, State.readA_writeA, if_pos ⟨rfl, hb⟩, State.readA_advance, State.readA_writeA,
    if_pos ⟨rfl, ha⟩]

end Sys2Proof.Machine

end InOrder
